-- ==== Sys2Proof/Config.lean ====
section
/-! DEFINITION. The parameters fixed when the block is built (spec/00_scope.md section 3, R19, D36): the sizes and
the widths that follow from them, the durations and the polarities; and the free values: the OPEN parameters, the
environment's samples and draws beyond what a state's queues hold, and the transmitter's working registers while they
are dead. The code tables are the parameters of Decode.lean. -/

namespace Sys2Proof

/-- The build-time parameters that a rule of the spec takes as a parameter and that do not fix a width
(R5 to R9, D7 to D9). A state carries them, so a claim about every state is a claim about every value
of them (assumption log entry 1). -/
structure Params where
  /-- `UI_TICKS`, the ticks of one unit interval (R5). -/
  uiTicks : Nat
  /-- `ROW_SETTLE_TICKS` (R8). -/
  rowSettleTicks : Nat
  /-- `POWERUP_TICKS` (R9). -/
  powerupTicks : Nat
  /-- `KEY_SETTLE_UI`, in unit intervals (R6). -/
  keySettleUi : Nat
  /-- `CYCLE_DEBOUNCE_TICKS` (R7). -/
  cycleDebounceTicks : Nat
  /-- `ROW_ACTIVE_LEVEL` (R22). -/
  rowActiveLevel : Bool
  /-- `COL_ACTIVE_LEVEL` (R27). -/
  colActiveLevel : Bool
  /-- `LED_ON_LEVEL` (R23, D9). -/
  ledOnLevel : Bool
deriving DecidableEq, Repr

namespace Config

/-! ### The sizes, at their reference values (assumption log entry 18) -/

/-- `N_ROWS`, its reference value (R2). -/
abbrev nRows : Nat := 5

/-- `N_COLS`, its reference value (R2). -/
abbrev nCols : Nat := 4

/-- `BUF_N`, its reference value (R3). -/
abbrev bufN : Nat := 8

/-- `DATA_BITS`, its reference value (R4). -/
abbrev dataBits : Nat := 8

/-- The length of `IDENT`, its reference value (R11). -/
abbrev identLen : Nat := 5

/-! ### The widths that follow from the sizes -/

/-- The smallest width, at least 1, that holds every number from 0 to n (D34). -/
abbrev bitsFor (n : Nat) : Nat := Nat.log2 n + 1

/-- The width of a row operand (R86). -/
abbrev rowBits : Nat := bitsFor (nRows - 1)

/-- The width of a column number (R78). -/
abbrev colBits : Nat := bitsFor (nCols - 1)

/-- The width of LEN (R30). -/
abbrev lenBits : Nat := bitsFor bufN

/-- The phases of a frame: the start bit, the data bits and the stop bit (R4, R70). -/
abbrev phases : Nat := dataBits + 2

/-- The width of TX_K (R33). -/
abbrev phaseBits : Nat := bitsFor (phases - 1)

/-! ### The free values -/

/-- `UI_TICKS` is OPEN, an integer at least 1 (R5, D2): one more than a number left free. -/
opaque uiTicksLessOne : Nat

/-- `ROW_SETTLE_TICKS` is OPEN (R8, D3). -/
opaque rowSettleTicks : Nat

/-- `POWERUP_TICKS` is OPEN (R9, D4). -/
opaque powerupTicks : Nat

/-- The column levels the environment supplies at its n-th sample, once the queue of the state is
used up (R137, I9). -/
opaque freeSample : Nat → BitVec nCols

/-- The length of the n-th slack, once the queue of the state is used up (R16, I8). -/
opaque freeSlack : Nat → Nat

/-- What `TX_K` holds outside a frame (R33, I6, assumption log entry 16). -/
opaque deadTxK : Nat → BitVec phaseBits

/-- What `TX_DATA` holds outside a frame (R33, I6, assumption log entry 16). -/
opaque deadTxData : Nat → BitVec dataBits

/-! ### The durations and the polarities -/

/-- `BAUD`, its reference value (R5). -/
def baud : Nat := 9600

/-- The inter-cycle debounce hold in milliseconds, its reference value (R7). -/
def cycleDebounceMs : Nat := 40

/-- The inter-cycle hold in unit intervals: 40 ms at 9600 baud is 384 of them (R7, D5). -/
def cycleDebounceUi : Nat := cycleDebounceMs * baud / 1000

/-- The parameters at their reference values, the OPEN ones free (section 3 of spec/00_scope.md, assumption log
entries 2, 9 and 20). -/
def params : Params where
  uiTicks := uiTicksLessOne + 1
  rowSettleTicks := rowSettleTicks
  powerupTicks := powerupTicks
  keySettleUi := 8
  cycleDebounceTicks := cycleDebounceUi * (uiTicksLessOne + 1)
  rowActiveLevel := false
  colActiveLevel := false
  ledOnLevel := true

end Config

end Sys2Proof
end

