-- ==== Sys2Proof/Word.lean ====
section
/-! DEFINITION. The bit-vector types of the block's registers, lines and operands (spec/10_state.md
R20, spec/30_encoding.md R73 to R79 and R85 to R88), as wide as the sizes of Config make them. A line level is a
`Bool`: `true` is level 1. -/

namespace Sys2Proof

/-- One key code or transmitted byte, 8 bits (R73, R85). -/
abbrev Byte := BitVec Config.dataBits

/-- The column levels, bit c for column c, 4 bits: a sample, a snapshot entry, an edge vector (R27, R75) and
the LED lines (R23). -/
abbrev Cols := BitVec Config.nCols

/-- The row select lines, bit r for row r, 5 bits (R22). -/
abbrev Rows := BitVec Config.nRows

/-- A row operand, 3 bits; 0 to 4 are legal (R86). -/
abbrev RowNum := BitVec Config.rowBits

/-- A column number, 2 bits (R78). -/
abbrev ColNum := BitVec Config.colBits

/-- The scanner's result word, the valid bit above the column, 3 bits (R78). -/
abbrev ScanRes := BitVec (1 + Config.colBits)

/-- A count of buffer entries, 4 bits: LEN and the flush's byte index (R30, R32). -/
abbrev Len := BitVec Config.lenBits

/-- A phase index, 4 bits (R33). -/
abbrev PhaseNum := BitVec Config.phaseBits

/-- The levels of one frame, phase 0 in bit 0, 10 bits (R72). -/
abbrev FrameWord := BitVec Config.phases

end Sys2Proof
end

