-- ==== Sys2Proof/Syntax.lean ====
section
/-! DEFINITION. The block's twelve operations (spec/30_encoding.md R93) and the words that select
them, one constructor per operand format and decode site (R85 to R89). -/

namespace Sys2Proof

/-- The operations of R93. The nineteen KEY.DATA rows of the opcode table are the values of one
operand (R81, assumption log entry 12). -/
inductive Instr where
  /-- `TX.FRAME d` (R100). -/
  | txFrame (d : Byte)
  /-- `SCAN.ROW r` (R120). -/
  | scanRow (r : RowNum)
  /-- `ROW.STEP r` (R141). -/
  | rowStep (r : RowNum)
  /-- `KEY.NONE` (R145). -/
  | keyNone
  /-- `KEY.LOOKUP r, c` (R142). -/
  | keyLookup (r : RowNum) (c : ColNum)
  /-- `KEY.FLUSH` (R146). -/
  | keyFlush
  /-- `KEY.CLEAR` (R149). -/
  | keyClear
  /-- `KEY.DATA k` (R147, R148). -/
  | keyData (key : Byte)
  /-- `FLUSH` (R150). -/
  | flush
  /-- `FORCE.FLUSH` (R152). -/
  | forceFlush
  /-- `CYCLE.END` (R160). -/
  | cycleEnd
  /-- `STARTUP` (R158). -/
  | startup
deriving DecidableEq, Repr

/-- The unit an OP_R3 word goes to: SCAN.ROW and ROW.STEP have the same operand bits (R86). -/
inductive RowUnit where
  | scn
  | ctl
deriving DecidableEq, Repr

/-- The state test that selects a SEQ operation, which has no operand bits (R89). -/
inductive SeqSel where
  | startup
  | cycleEnd
  | forceFlush
  | flush
deriving DecidableEq, Repr

/-- An operation word: the operand bits of a format, with what selects the decoder they go to. -/
inductive OpWord where
  /-- Format OP_D8, the byte handed to TX (R85). -/
  | opD8 (d : Byte)
  /-- Format OP_R3, the row handed to SCN or CTL (R86). -/
  | opR3 (unit : RowUnit) (r : RowNum)
  /-- Format SCANRES3, the scanner's result for the row being stepped (R88, assumption log entry 19). -/
  | scanRes3 (row : RowNum) (res : ScanRes)
  /-- Format KEY8, the code of the key that fired (R87). -/
  | key8 (key : Byte)
  /-- Format SEQ (R89). -/
  | seq (sel : SeqSel)
deriving DecidableEq, Repr

/-- The dispatch classes of the KEY8 decoder (R80). -/
inductive KeyClass where
  | flush
  | clear
  | data
deriving DecidableEq, Repr

end Sys2Proof
end

