-- ==== Sys2Proof/Decode.lean ====
section
/-! DEFINITION. The code tables of spec/30_encoding.md (R73, R80) and spec/20_memory.md (R50), the
decoder of the operation words (R78, R80 to R82, R85 to R89) and, after it, the encoder. -/

namespace Sys2Proof

/-- `KEYMAP`: row-major, 4 columns a row, 5 rows: `P 1 2 3 / T 4 5 6 / M 7 8 9 / B C 0 E / O S L A`
(R50), each character as its ASCII code (R73, assumption log entry 10). -/
def keymap : Vector Byte (Config.nRows * Config.nCols) :=
  #v[0x50#_, 0x31#_, 0x32#_, 0x33#_,
     0x54#_, 0x34#_, 0x35#_, 0x36#_,
     0x4D#_, 0x37#_, 0x38#_, 0x39#_,
     0x42#_, 0x43#_, 0x30#_, 0x45#_,
     0x4F#_, 0x53#_, 0x4C#_, 0x41#_]

/-- `IDENT`: `I N I T E` (R11). -/
def identBytes : Vector Byte Config.identLen := #v[0x49#_, 0x4E#_, 0x49#_, 0x54#_, 0x45#_]

/-- `FLUSH_CODE`, `E` (R10). -/
def flushCode : Byte := 0x45#_

/-- `CLEAR_CODE`, `C` (R10). -/
def clearCode : Byte := 0x43#_

/-- `END_MARKER`, `E` (R10). -/
def endMarker : Byte := 0x45#_

/-- The KEY8 decoder: `E` first, then `C`, then any other value (R80, R81). -/
def classify (key : Byte) : KeyClass :=
  if key = flushCode then .flush
  else if key = clearCode then .clear
  else .data

/-- The valid bit of a scanner result (R78). -/
def resValid (res : ScanRes) : Bool := res.getLsbD Config.colBits

/-- The column field of a scanner result (R78). -/
def resCol (res : ScanRes) : ColNum := res.extractLsb' 0 Config.colBits

/-- The result word that reports column c (R78). -/
def resOfCol (c : ColNum) : ScanRes := 1#1 ++ c

/-- A scanner result that the priority encoder can give: a column, or none with a column field of 0 (R78, R82). -/
def legalRes (res : ScanRes) : Bool := resValid res || res == 0#_

/-- The words the decoder refuses, by name. -/
inductive DecodeError where
  /-- A scanner result `001`, `010` or `011` (R82). -/
  | resultRange
deriving DecidableEq, Repr

/-- The decoder. An OP_R3 row of 5 to 7 decodes, and the operation itself faults on it (R82, R184, assumption log
entry 22). -/
def decode : OpWord → Except DecodeError Instr
  | .opD8 d => .ok (.txFrame d)
  | .opR3 .scn r => .ok (.scanRow r)
  | .opR3 .ctl r => .ok (.rowStep r)
  | .scanRes3 row res =>
    if resValid res then .ok (.keyLookup row (resCol res))
    else if res = 0#_ then .ok .keyNone
    else .error .resultRange
  | .key8 key =>
    match classify key with
    | .flush => .ok .keyFlush
    | .clear => .ok .keyClear
    | .data => .ok (.keyData key)
  | .seq .startup => .ok .startup
  | .seq .cycleEnd => .ok .cycleEnd
  | .seq .forceFlush => .ok .forceFlush
  | .seq .flush => .ok .flush

/-- The word of an operation, from the formats of R85 to R89. KEY.NONE has no row of its own: its word
is that of row 0. -/
def encode : Instr → OpWord
  | .txFrame d => .opD8 d
  | .scanRow r => .opR3 .scn r
  | .rowStep r => .opR3 .ctl r
  | .keyNone => .scanRes3 0#_ 0#_
  | .keyLookup r c => .scanRes3 r (resOfCol c)
  | .keyFlush => .key8 flushCode
  | .keyClear => .key8 clearCode
  | .keyData key => .key8 key
  | .flush => .seq .flush
  | .forceFlush => .seq .forceFlush
  | .cycleEnd => .seq .cycleEnd
  | .startup => .seq .startup

/-- The operation word of a table word of `nbits` bits. Only the two formats with a decoder of their own
have table words with fixed bits: SCANRES3 (3 bits) and KEY8 (8 bits). A 3-bit row given as one whole byte
is a value below 8, and no key code is below 8 (R73), so such a byte is read as SCANRES3 (assumption log
entry 13). -/
def tableWord (nbits w : Nat) : Option OpWord :=
  if w < 8 then
    if nbits = 3 ∨ nbits = 8 then some (.scanRes3 0#_ (BitVec.ofNat _ w)) else none
  else if nbits = 8 ∧ w < 256 then some (.key8 (BitVec.ofNat _ w))
  else none

/-- The instruction the decoder reads from a table word, and none where it refuses. -/
def decodeTableWord (nbits w : Nat) : Option Instr :=
  match tableWord nbits w with
  | none => none
  | some op =>
    match decode op with
    | .ok i => some i
    | .error _ => none

end Sys2Proof
end

