-- ==== Sys2Proof/Machine/Operands.lean ====
section
/-! DEFINITION. The encodings on the lines and the index of the key map (spec/30_encoding.md R70 to R77). -/

namespace Sys2Proof.Machine

/-- The level of phase k of the frame of b, as TX.FRAME's pseudocode drives it (R100). -/
def phaseLevel (b : Byte) (k : PhaseNum) : Bool :=
  if k = 0#_ then false
  else if k.toNat ≤ Config.dataBits then b.getLsbD (k.toNat - 1)
  else true

/-- The frame of b as one word, sent bit 0 first: `{1, b, 0}`, which is `0x200 | (b << 1)` (R72). -/
def frameWord (b : Byte) : FrameWord := (1#_ <<< (Config.dataBits + 1)) ||| (b.setWidth _ <<< 1)

/-- The row operand that names row r (R86). -/
def rowNum (r : Fin Config.nRows) : RowNum := BitVec.ofNat _ r.val

/-- The active vector of a sample (R75). -/
def act (p : Params) (s : Cols) : Cols := if p.colActiveLevel then s else ~~~s

/-- The sample the ideal matrix gives when exactly the columns set in `pressed` have their key of the
selected row held (R137). -/
def idealSample (p : Params) (pressed : Cols) : Cols :=
  if p.colActiveLevel then pressed else ~~~pressed

/-- `ROW_ONE(r)`: bit r at the active level, every other bit idle (R76). -/
def rowOne (p : Params) (r : RowNum) : Rows :=
  if p.rowActiveLevel then 1#_ <<< r.toNat else ~~~(1#_ <<< r.toNat)

/-- `ROW_IDLE`: every bit idle (R76). -/
def rowIdle (p : Params) : Rows := if p.rowActiveLevel then 0#_ else ~~~0#_

/-- The LED lines when exactly the LEDs set in `lit` are lit (R23, D9, assumption log entry 9). -/
def ledLines (p : Params) (lit : Cols) : Cols := if p.ledOnLevel then lit else ~~~lit

/-- `IND(c)`: the LED of column c alone is lit (R77). -/
def ind (p : Params) (c : ColNum) : Cols := ledLines p (1#_ <<< c.toNat)

/-- `LED_OFF`: no LED is lit (R77). -/
def ledOff (p : Params) : Cols := ledLines p 0#_

/-- The index of the key at row r, column c in KEYMAP (R51, R74). -/
def keyIndex (r : RowNum) (c : ColNum) : Nat := Config.nCols * r.toNat + c.toNat

end Sys2Proof.Machine
end

