-- ==== Sys2Proof/Machine/Flags.lean ====
section
/-! DEFINITION. The scanner's condition bits: the edge vector and the priority encoder
(spec/41_scanner.md R125 to R127, spec/30_encoding.md R79). They are the only flags the block computes (R38). -/

namespace Sys2Proof.Machine

/-- The rising edges: columns active in the new sample and not active in the previous one (R125, R126). -/
def edges (p : Params) (sample prev : Cols) : Cols := act p sample &&& ~~~(act p prev)

/-- The priority encoder: the lowest column whose edge is set, in the order 0, 1, 2, 3, and 000 for none (R79,
R127). -/
def prio (e : Cols) : ScanRes :=
  match (List.range Config.nCols).find? e.getLsbD with
  | some c => resOfCol (BitVec.ofNat _ c)
  | none => 0#_

end Sys2Proof.Machine
end

