-- ==== Sys2Proof/Machine/State.lean ====
section
/-! DEFINITION. The state of the block (spec/10_state.md R20 to R36), its reset (spec/70_reset_and_hazards.md
R201), and the reasons a step can stop (spec/60_exceptions.md R184). -/

namespace Sys2Proof.Machine

/-- The model faults of R184. Each marks a state or operand that no run of the block reaches and to which
the spec gives no meaning. All are safe: the model stops and nothing is claimed. -/
inductive Fault where
  /-- `ROW_RANGE`: raised by SCAN.ROW and ROW.STEP with a row above 4, the last row. Safe. -/
  | rowRange
  /-- `KEY_INDEX_RANGE`: raised by KEY.LOOKUP with an index above 19, the last of KEYMAP. Safe. -/
  | keyIndexRange
  /-- `LEN_RANGE`: raised by every operation and by the step in a state with LEN above BUF_N. Safe. -/
  | lenRange
  /-- `RESULT_RANGE`: raised by every operation and by the step in a state whose scanner result is 001, 010 or
  011, and where such a result is decoded. Safe. -/
  | resultRange
  /-- `BUF_INDEX_RANGE`: raised by a BUF access with an index above 7, the last of BUF. Safe. -/
  | bufIndexRange
deriving DecidableEq, Repr

/-- Refusals. Every operation of the block has a meaning, so no meaning refuses. -/
inductive Refusal where
  /-- An operation without a meaning, by its mnemonic: raised by no arm of exec. Safe. -/
  | notModelled (mnemonic : String)
deriving DecidableEq, Repr

/-- The sub-positions inside PP_ROW(r) (R32). DISPATCH is split at the slack of R141 into the look-up of
the scanner result and the dispatch of the key code (assumption log entry 15). -/
inductive RowPos where
  | scan
  | save
  | lookup
  | dispatch
  | force
  | settle
  | restore
deriving DecidableEq, Repr

/-- The sequencer's position PP (R32). -/
inductive PP where
  | powerup
  | ident (i : Fin Config.identLen)
  | row (r : Fin Config.nRows) (p : RowPos)
  | cycleEnd
deriving DecidableEq, Repr

/-- What the observation of a run records (R18): the writes of the three outputs (R17) and the samples. -/
inductive Signal where
  | txd (level : Bool)
  | rowSel (lines : Rows)
  | led (lines : Cols)
  | sample (levels : Cols)
deriving DecidableEq, Repr

/-- One write or sample, with the instant it happened. -/
structure Event where
  time : Nat
  signal : Signal
deriving DecidableEq, Repr

/-- The state: R20's tuple, the two working values one operation hands to the next, the build-time
parameters, the environment's inputs and the observation. -/
structure State where
  /-- `TXD` (R21). -/
  txd : Bool
  /-- `ROW_SEL` (R22). -/
  rowSel : Rows
  /-- `LED` (R23). -/
  led : Cols
  /-- `LED_SAVE` (R25). -/
  ledSave : Cols
  /-- `SNAP[0..N_ROWS-1]` (R28). -/
  snap : Vector Cols Config.nRows
  /-- `BUF[0..BUF_N-1]` (R29). -/
  buf : Vector Byte Config.bufN
  /-- `LEN` (R30). -/
  len : Len
  /-- `PP` (R32). -/
  pp : PP
  /-- The byte index of the FLUSH in progress, a part of `PP` (R32). -/
  flushIdx : Len
  /-- `TX_K` (R33). -/
  txK : PhaseNum
  /-- `TX_DATA` (R33). -/
  txData : Byte
  /-- `now` (R36). -/
  now : Nat
  /-- The scanner's result, live inside one ROW.STEP (R34, assumption log entry 6). -/
  res : ScanRes
  /-- The key code, live inside one ROW.STEP (R35, assumption log entry 6). -/
  key : Byte
  /-- The build-time parameters (R19, assumption log entry 1). -/
  par : Params
  /-- The column samples the environment will supply, the next one first (R137, assumption log entry 3). -/
  colQueue : List Cols
  /-- How many samples have been taken. -/
  sampleIdx : Nat
  /-- The slack draws to come, the next one first (R16, assumption log entry 4). -/
  slackQueue : List Nat
  /-- How many slack draws have been made. -/
  slackIdx : Nat
  /-- The observation so far, in program order (R17, R18, assumption log entry 5). -/
  trace : List Event
deriving DecidableEq, Repr

/-- The state right after reset for given parameters and given snapshots (R201). The snapshots are a
parameter because the spec asks for it (R28, R136, D15). LED_SAVE, BUF, TX_K and TX_DATA, which R201 leaves
unspecified, are zero (assumption log entry 7); the other values are the spec's decisions (entry 8). -/
def State.resetWith (p : Params) (snapReset : Vector Cols Config.nRows) : State where
  txd := true
  rowSel := if p.rowActiveLevel then 0#_ else BitVec.allOnes _
  led := if p.ledOnLevel then 0#_ else BitVec.allOnes _
  ledSave := 0#_
  snap := snapReset
  buf := Vector.replicate _ 0#_
  len := 0#_
  pp := .powerup
  flushIdx := 0#_
  txK := 0#_
  txData := 0#_
  now := 0
  res := 0#_
  key := 0#_
  par := p
  colQueue := []
  sampleIdx := 0
  slackQueue := []
  slackIdx := 0
  trace := []

/-- `SNAP_RESET` at its reference: the inactive level in every column of every row (R28, D15). -/
def State.snapReset (p : Params) : Vector Cols Config.nRows :=
  Vector.replicate _ (if p.colActiveLevel then 0#_ else BitVec.allOnes _)

/-- The state right after reset (R201). -/
def State.reset : State := State.resetWith Config.params (State.snapReset Config.params)

end Sys2Proof.Machine
end

