-- ==== Sys2Proof/Machine/Ops.lean ====
section
/-! DEFINITION. The named operations over the state: the time primitives, the output writes, the sample, the
accesses of BUF and KEYMAP, and the frame that TX.FRAME sends. The block has no exceptions (spec/60_exceptions.md
R180, R186), so no operation takes or returns from one. -/

namespace Sys2Proof.Machine

/-- What an operation answers. -/
abbrev Out := Host.Outcome State Fault Refusal

/-- One operation after another: the second runs in the state the first leaves, and a stop is passed on. -/
def andThen (o : Out) (f : State → Out) : Out :=
  match o with
  | .next s => f s
  | .fault e => .fault e
  | .refused e => .refused e

/-- The registers hold legal values: LEN at most BUF_N, and a scanner result that the priority encoder gives (R31,
R78, R82). -/
abbrev Legal (s : State) : Prop := s.len.toNat ≤ Config.bufN ∧ legalRes s.res = true

/-- The faults that R184 gives to states: LEN_RANGE where LEN is above BUF_N, RESULT_RANGE where the scanner result is
reserved (assumption log entry 11). -/
def guardState (s : State) (f : State → Out) : Out :=
  if Config.bufN < s.len.toNat then .fault .lenRange
  else if legalRes s.res then f s
  else .fault .resultRange

/-- `hold(d)`: `now` advances by exactly d ticks (R15). -/
def State.hold (s : State) (d : Nat) : State := { s with now := s.now + d }

/-- The j-th slack draw to come: from the queue, and a free value beyond its end (R16). -/
def State.slackAt (s : State) (j : Nat) : Nat :=
  match s.slackQueue[j]? with
  | some d => d
  | none => Config.freeSlack (s.slackIdx + j)

/-- `slack()`: `now` advances by the next draw (R16). -/
def State.slack (s : State) : State :=
  { s with
    now := s.now + s.slackAt 0
    slackQueue := s.slackQueue.tail
    slackIdx := s.slackIdx + 1 }

/-- Record an output write or a sample at the current instant (R17, R18). -/
def State.emit (s : State) (x : Signal) : State :=
  { s with trace := s.trace ++ [{ time := s.now, signal := x }] }

/-- `TXD <- v` (R17). -/
def State.writeTxd (s : State) (v : Bool) : State := { s.emit (.txd v) with txd := v }

/-- `ROW_SEL <- v` (R17). -/
def State.writeRowSel (s : State) (v : Rows) : State := { s.emit (.rowSel v) with rowSel := v }

/-- `LED <- v` (R17). -/
def State.writeLed (s : State) (v : Cols) : State := { s.emit (.led v) with led := v }

/-- `LED_SAVE <- LED` (R141, step SAVE). -/
def State.saveLed (s : State) : State := { s with ledSave := s.led }

/-- The levels the environment supplies at the next sample: from the queue, and a free value beyond its
end (R124, R137). -/
def State.nextSample (s : State) : Cols :=
  match s.colQueue with
  | c :: _ => c
  | [] => Config.freeSample s.sampleIdx

/-- `sample(COL_IN)`: the environment's next levels are used up and recorded (R18, R124). -/
def State.takeSample (s : State) : State :=
  { s.emit (.sample s.nextSample) with
    colQueue := s.colQueue.tail
    sampleIdx := s.sampleIdx + 1 }

/-- Set the sequencer's position. -/
def State.setPp (s : State) (pp : PP) : State := { s with pp := pp }

/-- `LEN <- n`. -/
def State.setLen (s : State) (n : Len) : State := { s with len := n }

/-- `MemRead(BUF, i, 1)`; none where the index is above 7 (R53, R184). -/
def State.bufRead (s : State) (i : Nat) : Option Byte := s.buf[i]?

/-- `MemWrite(BUF, i, 1, v)`, with BUF_INDEX_RANGE where the index is above 7 (R53, R184). -/
def State.bufWrite (s : State) (i : Nat) (v : Byte) : Out :=
  if h : i < Config.bufN then .next { s with buf := s.buf.set i v h } else .fault .bufIndexRange

/-- `MemRead(KEYMAP, k, 1)`; none where the index is above 19 (R51, R184). -/
def keymapRead (k : Nat) : Option Byte := keymap[k]?

/-- One phase of a frame: TX_K, the level on TXD, one unit interval (R100, R101). -/
def State.txPhase (s : State) (k : Nat) : State :=
  let s1 := { s with txK := BitVec.ofNat _ k }
  (s1.writeTxd (phaseLevel s1.txData s1.txK)).hold s1.par.uiTicks

/-- TX_K and TX_DATA are dead from here on, and hold anything (R33, R100, I6). -/
def State.txRelease (s : State) : State :=
  { s with
    txK := Config.deadTxK s.slackIdx
    txData := Config.deadTxData s.slackIdx }

/-- `TX.FRAME(d)`: the leading slack, then the ten phases without a gap (R100, R101). -/
def State.txFrame (s : State) (d : Byte) : State :=
  ((List.range Config.phases).foldl State.txPhase { s.slack with txData := d }).txRelease

end Sys2Proof.Machine
end

