-- ==== Sys2Proof/Machine/Controller.lean ====
section
/-! DEFINITION. The controller's operations other than ROW.STEP (spec/42_controller.md R142 to R152, R158,
R160). -/

namespace Sys2Proof.Machine

/-- `KEY.LOOKUP(r, c)` as ROW.STEP calls it: the code goes to `key` (R142). -/
def keyLookup (r : RowNum) (c : ColNum) (s : State) : Out :=
  match keymapRead (keyIndex r c) with
  | some k => .next { s with key := k }
  | none => .fault .keyIndexRange

/-- The append of R147, and the drop of R148 when the buffer is full. -/
def keyData (key : Byte) (s : State) : Out :=
  if s.len.toNat < Config.bufN then
    andThen (s.bufWrite s.len.toNat key) fun t => .next (t.setLen (t.len + 1#_))
  else .next s

/-- The frames of n entries of BUF from the flush's byte index on, oldest first (R150). -/
def flushFrom : Nat → State → Out
  | 0, s => .next s
  | n + 1, s =>
    match s.bufRead s.flushIdx.toNat with
    | some b => flushFrom n { s.txFrame b with flushIdx := s.flushIdx + 1#_ }
    | none => .fault .bufIndexRange

/-- `FLUSH` as KEY.FLUSH and FORCE.FLUSH call it (R150, R151). BUF keeps its entries (assumption log entry 21). -/
def flush (s : State) : Out :=
  if s.len = 0#_ then .next s
  else
    andThen (flushFrom s.len.toNat { s with flushIdx := 0#_ }) fun t =>
      .next ((t.txFrame endMarker).setLen 0#_)

/-- `FORCE.FLUSH` as ROW.STEP calls it (R152). -/
def forceFlush (s : State) : Out := if s.len.toNat = Config.bufN then flush s else .next s

/-- The frames of IDENT (R158). -/
def sendIdent (s : State) : State := identBytes.toList.foldl State.txFrame s

/-- KEY.NONE (R145). -/
def execKeyNone (s : State) : Out := guardState s .next

/-- KEY.LOOKUP (R142). -/
def execKeyLookup (r : RowNum) (c : ColNum) (s : State) : Out := guardState s (keyLookup r c)

/-- KEY.FLUSH (R146). -/
def execKeyFlush (s : State) : Out := guardState s flush

/-- KEY.CLEAR (R149). -/
def execKeyClear (s : State) : Out := guardState s fun s => .next (s.setLen 0#_)

/-- KEY.DATA (R147, R148). -/
def execKeyData (key : Byte) (s : State) : Out := guardState s (keyData key)

/-- FLUSH (R150). -/
def execFlush (s : State) : Out := guardState s flush

/-- FORCE.FLUSH (R152). -/
def execForceFlush (s : State) : Out := guardState s forceFlush

/-- CYCLE.END (R160). -/
def execCycleEnd (s : State) : Out :=
  guardState s fun s =>
    let t := s.slack
    .next (((t.writeLed (ledOff t.par)).writeRowSel (rowIdle t.par)).hold t.par.cycleDebounceTicks)

/-- STARTUP (R158). -/
def execStartup (s : State) : Out :=
  guardState s fun s => .next (sendIdent (s.hold s.par.powerupTicks))

end Sys2Proof.Machine
end

