-- ==== Sys2Proof/Machine/Scanner.lean ====
section
/-! DEFINITION. The scanner's operation, SCAN.ROW (spec/41_scanner.md R120). -/

namespace Sys2Proof.Machine

/-- The select, the settle hold and the slack that come before the sample (R122, R123). -/
def scanSettle (r : RowNum) (s : State) : State :=
  ((s.writeRowSel (rowOne s.par r)).hold s.par.rowSettleTicks).slack

/-- The sample, the edge detector, the priority encoder and the snapshot update (R124 to R128). The snapshot
is read before it is written (R54). -/
def scanSample (i : Nat) (h : i < Config.nRows) (s : State) : State :=
  { s.takeSample with
    res := prio (edges s.par s.nextSample s.snap[i])
    snap := s.snap.set i s.nextSample h }

/-- `SCAN.ROW(r)` as ROW.STEP calls it (R120). -/
def scanRow (r : RowNum) (s : State) : Out :=
  if h : r.toNat < Config.nRows then .next (scanSample r.toNat h (scanSettle r s))
  else .fault .rowRange

/-- SCAN.ROW (R120). -/
def execScanRow (r : RowNum) (s : State) : Out := guardState s (scanRow r)

end Sys2Proof.Machine
end

