-- ==== Sys2Proof/Machine/RowStep.lean ====
section
/-! DEFINITION. ROW.STEP, the per-row protocol, in the steps R141 names (spec/42_controller.md R141). -/

namespace Sys2Proof.Machine

/-- Step 1's second half: the LED shows the column, and the slack before the dispatch (R141, R143). -/
def showKey (s : State) : State := (s.writeLed (ind s.par (resCol s.res))).slack

/-- Step 1 and the choice of R88: look the key up and show it, or KEY.NONE (R141, R145). -/
def rowLookup (r : RowNum) (s : State) : Out :=
  if resValid s.res then andThen (keyLookup r (resCol s.res) s) fun t => .next (showKey t)
  else if s.res = 0#_ then .next s
  else .fault .resultRange

/-- Step 2: the KEY8 dispatch, when a key fired (R80, R144). -/
def rowDispatch (s : State) : Out :=
  if resValid s.res then
    match classify s.key with
    | .flush => flush s
    | .clear => .next (s.setLen 0#_)
    | .data => keyData s.key s
  else .next s

/-- Step 3: the forced flush (R152). -/
def rowForce (s : State) : Out :=
  let t := s.slack
  if t.len.toNat = Config.bufN then forceFlush t else .next t

/-- Step 4: the settle hold after a key (R153). -/
def rowSettle (s : State) : State :=
  if resValid s.res then s.hold (s.par.keySettleUi * s.par.uiTicks) else s

/-- Step 5: the restore of the LED (R154). -/
def rowRestore (s : State) : State :=
  let t := s.slack
  t.writeLed t.ledSave

/-- `ROW.STEP(r)`: the steps of R141 in their order. -/
def rowStep (r : RowNum) (s : State) : Out :=
  andThen (scanRow r s.slack) fun s =>
  andThen (rowLookup r s.saveLed) fun s =>
  andThen (rowDispatch s) fun s =>
  andThen (rowForce s) fun s =>
  .next (rowRestore (rowSettle s))

/-- ROW.STEP (R141). -/
def execRowStep (r : RowNum) (s : State) : Out := guardState s (rowStep r)

end Sys2Proof.Machine
end

