-- ==== Sys2Proof/Machine/Transmitter.lean ====
section
/-! DEFINITION. The transmitter's operation, TX.FRAME (spec/40_transmitter.md R100). -/

namespace Sys2Proof.Machine

/-- TX.FRAME (R100). -/
def execTxFrame (d : Byte) (s : State) : Out := guardState s fun s => .next (s.txFrame d)

end Sys2Proof.Machine
end

