-- ==== Sys2Proof/Machine/Dispatch.lean ====
section
/-! DEFINITION. The dispatch: each operation of the block to its meaning (spec/30_encoding.md R93). -/

namespace Sys2Proof.Machine

def exec (i : Instr) (s : State) : Host.Outcome State Fault Refusal :=
  match i with
  | .txFrame d => Sys2Proof.Machine.execTxFrame d s
  | .scanRow r => Sys2Proof.Machine.execScanRow r s
  | .rowStep r => Sys2Proof.Machine.execRowStep r s
  | .keyNone => Sys2Proof.Machine.execKeyNone s
  | .keyLookup r c => Sys2Proof.Machine.execKeyLookup r c s
  | .keyFlush => Sys2Proof.Machine.execKeyFlush s
  | .keyClear => Sys2Proof.Machine.execKeyClear s
  | .keyData key => Sys2Proof.Machine.execKeyData key s
  | .flush => Sys2Proof.Machine.execFlush s
  | .forceFlush => Sys2Proof.Machine.execForceFlush s
  | .cycleEnd => Sys2Proof.Machine.execCycleEnd s
  | .startup => Sys2Proof.Machine.execStartup s

end Sys2Proof.Machine
end

