-- ==== Sys2Proof/Machine/Sequencer.lean ====
section
/-! DEFINITION. The controller's program MAIN (spec/42_controller.md R140), one sequencer position at a time
(spec/10_state.md R32): which operation a position runs, the statements of R141, R158 and R160 that stand
around it, and the position that follows. -/

namespace Sys2Proof.Machine

/-- The word the position selects its operation with, if it runs one (R88, R89, R140, R141, R158). -/
def opWord (s : State) : Option OpWord :=
  match s.pp with
  | .powerup => none
  | .ident i => some (.opD8 identBytes[i])
  | .row r .scan => some (.opR3 .scn (rowNum r))
  | .row _ .save => none
  | .row r .lookup => some (.scanRes3 (rowNum r) s.res)
  | .row _ .dispatch => some (.key8 s.key)
  | .row _ .force => if s.len.toNat = Config.bufN then some (.seq .forceFlush) else none
  | .row _ .settle => none
  | .row _ .restore => none
  | .cycleEnd => some (.seq .cycleEnd)

/-- The statements of the position that come before its operation. -/
def before (s : State) : State :=
  match s.pp with
  | .powerup => s.hold s.par.powerupTicks
  | .ident _ => s
  | .row _ .scan => s.slack
  | .row _ .save => s.saveLed
  | .row _ .lookup => s
  | .row _ .dispatch => s
  | .row _ .force => s.slack
  | .row _ .settle => rowSettle s
  | .row _ .restore => rowRestore s
  | .cycleEnd => s

/-- The statements of the position that come after its operation: at the look-up of a key that fired, the
LED and the slack (R141, R143). -/
def after (s : State) : State :=
  match s.pp with
  | .row _ .lookup => if resValid s.res then showKey s else s
  | .row _ .scan => s
  | .row _ .save => s
  | .row _ .dispatch => s
  | .row _ .force => s
  | .row _ .settle => s
  | .row _ .restore => s
  | .powerup => s
  | .ident _ => s
  | .cycleEnd => s

/-- The position that follows (R32, R140, R156, R161). -/
def nextPP (s : State) : PP :=
  match s.pp with
  | .powerup => .ident 0
  | .ident i => if h : i.val + 1 < Config.identLen then .ident ⟨i.val + 1, h⟩ else .row 0 .scan
  | .row r .scan => .row r .save
  | .row r .save => .row r .lookup
  | .row r .lookup => if resValid s.res then .row r .dispatch else .row r .force
  | .row r .dispatch => .row r .force
  | .row r .force => .row r .settle
  | .row r .settle => .row r .restore
  | .row r .restore => if h : r.val + 1 < Config.nRows then .row ⟨r.val + 1, h⟩ .scan else .cycleEnd
  | .cycleEnd => .row 0 .scan

/-- The end of a position. -/
def finish (s : State) : State := (after s).setPp (nextPP s)

/-- The fault of a word that the decoder refuses (R184). -/
def decodeFault : DecodeError → Fault
  | .resultRange => .resultRange

/-- One position of MAIN: its operation is decoded and run by `exec`, between its other statements. -/
def runPosition (s : State) : Out :=
  match opWord s with
  | none => .next (finish (before s))
  | some w =>
    match decode w with
    | .error e => .fault (decodeFault e)
    | .ok i => andThen (exec i (before s)) fun t => .next (finish t)

/-- Put a word where the sequencer decodes it next: a scanner result at the look-up and a key code at the
dispatch of the row the word belongs to (R88, R80). Words of the other formats have no such place. -/
def placeWord (s : State) (w : OpWord) : State :=
  match w with
  | .scanRes3 row res =>
    if h : row.toNat < Config.nRows then { s with pp := .row ⟨row.toNat, h⟩ .lookup, res := res } else s
  | .key8 key => { s with pp := .row 0 .dispatch, key := key }
  | .opD8 _ => s
  | .opR3 _ _ => s
  | .seq _ => s

end Sys2Proof.Machine
end

