-- ==== Sys2Proof/Machine/Step.lean ====
section
/-! DEFINITION. The step: one position of the sequencer's program, in a state whose registers hold legal values
(spec/42_controller.md R140, spec/60_exceptions.md R184). -/

namespace Sys2Proof.Machine

/-- One step of the block. -/
def step (s : State) : Host.Outcome State Fault Refusal := guardState s runPosition

/-- The state with a table word where the next step decodes it (assumption log entries 13 and 14). -/
def State.withFetchWord (s : State) (nbits w : Nat) : State :=
  match tableWord nbits w with
  | some op => placeWord s op
  | none => s

end Sys2Proof.Machine
end

