-- ==== Sys2Proof/Machine/Observe.lean ====
section
/-! DEFINITION. What a run shows outside the block: the waveforms of the three outputs (spec/00_scope.md R17,
R18), the frames on TXD, the byte-level view of TXD and the listener that recovers it from the waveform
(spec/40_transmitter.md R104). -/

namespace Sys2Proof.Machine

/-- The waveform of TXD over a trace: the last level written at or before t, and `init` before the first
write (R17). -/
def txdAt (init : Bool) (tr : List Event) (t : Nat) : Bool :=
  tr.foldl (fun level e =>
    match e.signal with
    | .txd v => if e.time ≤ t then v else level
    | .rowSel _ => level
    | .led _ => level
    | .sample _ => level) init

/-- The waveform of ROW_SEL (R17). -/
def rowSelAt (init : Rows) (tr : List Event) (t : Nat) : Rows :=
  tr.foldl (fun lines e =>
    match e.signal with
    | .rowSel v => if e.time ≤ t then v else lines
    | .txd _ => lines
    | .led _ => lines
    | .sample _ => lines) init

/-- The waveform of LED (R17). -/
def ledAt (init : Cols) (tr : List Event) (t : Nat) : Cols :=
  tr.foldl (fun lines e =>
    match e.signal with
    | .led v => if e.time ≤ t then v else lines
    | .txd _ => lines
    | .rowSel _ => lines
    | .sample _ => lines) init

/-- The samples the environment supplied (R18). -/
def samplesOf (tr : List Event) : List Cols :=
  tr.filterMap fun e =>
    match e.signal with
    | .sample v => some v
    | .txd _ => none
    | .rowSel _ => none
    | .led _ => none

/-- The levels written to TXD, in order. -/
def txdLevels (tr : List Event) : List Bool :=
  tr.filterMap fun e =>
    match e.signal with
    | .txd v => some v
    | .rowSel _ => none
    | .led _ => none
    | .sample _ => none

/-- The writes of TXD, with their instants. -/
def txdEvents (tr : List Event) : List Event :=
  tr.filter fun e =>
    match e.signal with
    | .txd _ => true
    | .rowSel _ => false
    | .led _ => false
    | .sample _ => false

/-- The writes of one frame whose start phase begins at `t0` (R101, R102). -/
def frameEvents (t0 ui : Nat) (d : Byte) : List Event :=
  (List.range Config.phases).map fun k => { time := t0 + k * ui, signal := .txd ((frameWord d).getLsbD k) }

/-- The writes of frames, each given by the instant of its start phase and its byte. -/
def lineEvents (ui : Nat) (frames : List (Nat × Byte)) : List Event :=
  frames.flatMap fun f => frameEvents f.1 ui f.2

/-- The levels of the frames of a sequence of bytes, phase by phase (R70, R72). -/
def frameLevels (bytes : List Byte) : List Bool :=
  bytes.flatMap fun b => (List.range Config.phases).map (frameWord b).getLsbD

/-- The byte whose bit i is `bit i`. -/
def byteOfBits (bit : Nat → Bool) : Byte := BitVec.ofFnLE fun i : Fin Config.dataBits => bit i.val

/-- The bytes of a sequence of phase levels, ten phases a frame, data bit i in phase i + 1 of its frame (R70). -/
def framesOf (levels : List Bool) : List Byte :=
  (List.range (levels.length / Config.phases)).map fun n =>
    byteOfBits fun i => levels.getD (Config.phases * n + (i + 1)) false

/-- The byte-level view of TXD over a trace: the bytes framed on it, in order (R18, R104). -/
def sentBytes (tr : List Event) : List Byte := framesOf (txdLevels tr)

/-- What a listener reads that saw the start edge at `t0` and reads data bit i at an offset `off i` into
phase i + 1 (R104, I11). -/
def listenerByte (level : Nat → Bool) (t0 ui : Nat) (off : Nat → Nat) : Byte :=
  byteOfBits fun i => level (t0 + (i + 1) * ui + off i)

/-- The waveform falls at t: 1 just before t, and 0 from t on. `init` is the level before instant 0 (R84, R104). -/
def fallsAt (init : Bool) (level : Nat → Bool) (t : Nat) : Bool :=
  (if t = 0 then init else level (t - 1)) && !level t

/-- The listener of R104 on a waveform, from instant t to instant `stop`: it waits for a 1-to-0 transition, reads one
byte from the frame that begins there, and returns to waiting after the frame's last phase. `off t0 i` is where it
reads data bit i of the frame that began at t0. `fuel` bounds the instants it looks at. -/
def listenFrom (init : Bool) (level : Nat → Bool) (ui : Nat) (off : Nat → Nat → Nat) (stop : Nat) :
    Nat → Nat → List Byte
  | 0, _ => []
  | fuel + 1, t =>
    if stop ≤ t then []
    else if fallsAt init level t then
      listenerByte level t ui (off t) :: listenFrom init level ui off stop fuel (t + Config.phases * ui)
    else listenFrom init level ui off stop fuel (t + 1)

/-- The bytes a listener recovers from the waveform of the run so far: TXD is 1 before the first write (R21, R104). -/
def heard (off : Nat → Nat → Nat) (s : State) : List Byte :=
  listenFrom true (txdAt true s.trace) s.par.uiTicks off s.now s.now 0

/-- The reference listener, which reads in the middle of each data phase (R104). -/
def midPhase (s : State) : Nat → Nat → Nat := fun _ _ => s.par.uiTicks / 2

end Sys2Proof.Machine
end

