-- ==== Sys2Proof/Machine/Pseudo.lean ====
section
/-! DEFINITION. Sequences of operations and the two pseudo-operations (spec/30_encoding.md R94). -/

namespace Sys2Proof.Machine

/-- Operations one after another, each run to completion (R12). -/
def execSeq : List Instr → State → Out
  | [], s => .next s
  | i :: rest, s => andThen (exec i s) (execSeq rest)

/-- `TX.STRING`: one TX.FRAME for each byte, in order (R94). -/
def txString (bytes : List Byte) : List Instr := bytes.map .txFrame

/-- `SCAN.CYCLE`: ROW.STEP 0 to 4, then CYCLE.END (R94). -/
def scanCycle : List Instr :=
  (List.finRange Config.nRows).map (fun r => .rowStep (rowNum r)) ++ [.cycleEnd]

end Sys2Proof.Machine
end

