-- ==== Sys2Proof/WellFormed.lean ====
section
/-! DEFINITION. Which operations have legal operands (spec/30_encoding.md R80, R82). -/

namespace Sys2Proof

/-- A row operand 0 to 4 (R82). -/
def legalRow (r : RowNum) : Bool := r.toNat < Config.nRows

/-- The operands the spec calls legal: rows 0 to 4, and for KEY.DATA any key that is neither `E` nor `C`
(R80, R82). -/
def Instr.wellFormed : Instr → Bool
  | .scanRow r => legalRow r
  | .rowStep r => legalRow r
  | .keyLookup r _ => legalRow r
  | .keyData key => classify key == .data
  | .txFrame _ => true
  | .keyNone => true
  | .keyFlush => true
  | .keyClear => true
  | .flush => true
  | .forceFlush => true
  | .cycleEnd => true
  | .startup => true

end Sys2Proof
end

