-- ==== Sys2Proof/Safety.lean ====
section
/-! DEFINITION. What counts as a safe run, in the terms the statements use: the invariant of the sequencer's
positions, the session on the serial line, the buffer seen as a list, and the two ways a pair of states is
compared (spec/10_state.md R31, spec/42_controller.md R155, R162, R163, R166, spec/70_reset_and_hazards.md R218). -/

namespace Sys2Proof.Machine

/-- n steps of the block, one after another. -/
def steps : Nat → State → Out
  | 0, s => .next s
  | n + 1, s => andThen (step s) (steps n)

/-- The buffer's contents, oldest first (R29). -/
def contents (s : State) : List Byte := s.buf.toList.take s.len.toNat

/-- One of the 18 codes that are appended (R52). -/
def isDataCode (k : Byte) : Prop := k ∈ keymap.toList ∧ classify k = .data

/-- The sum of the next n slack draws. -/
def slackSum (s : State) (n : Nat) : Nat := ((List.range n).map s.slackAt).sum

/-- The scanner result that a SCAN.ROW of row r gives in state s (R125 to R127). -/
def scanResult (r : Fin Config.nRows) (s : State) : ScanRes := prio (edges s.par s.nextSample s.snap[r])

/-- The code of the key that fires in row r, if one fires (R142). -/
def firedKey (r : Fin Config.nRows) (s : State) : Option Byte :=
  if resValid (scanResult r s) then keymapRead (keyIndex (rowNum r) (resCol (scanResult r s))) else none

/-- What one row does to the buffer seen as a list: the bytes sent and the contents left (R141, R146 to R152).
It knows nothing of the state or of time. -/
def rowOutcome (fired : Option Byte) (held : List Byte) : List Byte × List Byte :=
  let sendAll (l : List Byte) : List Byte × List Byte := (if l = [] then [] else l ++ [endMarker], [])
  let force (l : List Byte) : List Byte × List Byte := if l.length = Config.bufN then sendAll l else ([], l)
  match fired with
  | none => force held
  | some k =>
    match classify k with
    | .flush => sendAll held
    | .clear => ([], [])
    | .data => force (if held.length < Config.bufN then held ++ [k] else held)

/-- The position after row r (R32). -/
def rowAfter (r : Fin Config.nRows) : PP :=
  if h : r.val + 1 < Config.nRows then .row ⟨r.val + 1, h⟩ .scan else .cycleEnd

/-- The LED writes of a trace, with their instants. -/
def ledWrites (tr : List Event) : List (Nat × Cols) :=
  tr.filterMap fun e =>
    match e.signal with
    | .led v => some (e.time, v)
    | .txd _ => none
    | .rowSel _ => none
    | .sample _ => none

/-- The ROW_SEL writes of a trace, with their instants. -/
def rowSelWrites (tr : List Event) : List (Nat × Rows) :=
  tr.filterMap fun e =>
    match e.signal with
    | .rowSel v => some (e.time, v)
    | .txd _ => none
    | .led _ => none
    | .sample _ => none

/-- The largest LEN at a position: BUF_N only between the dispatch and the forced flush (R31, R163). -/
def lenBound : PP → Nat
  | .row _ .force => Config.bufN
  | .row _ .scan => Config.bufN - 1
  | .row _ .save => Config.bufN - 1
  | .row _ .lookup => Config.bufN - 1
  | .row _ .dispatch => Config.bufN - 1
  | .row _ .settle => Config.bufN - 1
  | .row _ .restore => Config.bufN - 1
  | .powerup => Config.bufN - 1
  | .ident _ => Config.bufN - 1
  | .cycleEnd => Config.bufN - 1

/-- The row lines at a position: idle before the first scan of a cycle, row r from its scan until the next
select (R76, R133). -/
def rowLinesAt (p : Params) : PP → Rows
  | .powerup => rowIdle p
  | .ident _ => rowIdle p
  | .row r .scan => if r.val = 0 then rowIdle p else rowOne p (BitVec.ofNat _ (r.val - 1))
  | .row r .save => rowOne p (rowNum r)
  | .row r .lookup => rowOne p (rowNum r)
  | .row r .dispatch => rowOne p (rowNum r)
  | .row r .force => rowOne p (rowNum r)
  | .row r .settle => rowOne p (rowNum r)
  | .row r .restore => rowOne p (rowNum r)
  | .cycleEnd => rowOne p (BitVec.ofNat _ (Config.nRows - 1))

/-- The LED lines at a position: the column of the key that fired from the look-up to the restore, off
elsewhere (R143, R155). -/
def ledLinesAt (s : State) : Cols :=
  let shown := if resValid s.res then ind s.par (resCol s.res) else ledOff s.par
  match s.pp with
  | .row _ .dispatch => shown
  | .row _ .force => shown
  | .row _ .settle => shown
  | .row _ .restore => shown
  | .row _ .scan => ledOff s.par
  | .row _ .save => ledOff s.par
  | .row _ .lookup => ledOff s.par
  | .powerup => ledOff s.par
  | .ident _ => ledOff s.par
  | .cycleEnd => ledOff s.par

/-- What LED_SAVE and the key latch hold at a position, and that the dispatch follows a key (R25, R142). -/
def latchesAt (s : State) : Prop :=
  let saved := s.ledSave = ledOff s.par
  match s.pp with
  | .row _ .lookup => saved
  | .row r .dispatch =>
    resValid s.res = true ∧ saved ∧ keymapRead (keyIndex (rowNum r) (resCol s.res)) = some s.key
  | .row _ .force => saved
  | .row _ .settle => saved
  | .row _ .restore => saved
  | .row _ .scan => True
  | .row _ .save => True
  | .powerup => True
  | .ident _ => True
  | .cycleEnd => True

/-- The invariant of the sequencer's positions. -/
structure Inv (s : State) : Prop where
  /-- The serial line is idle between operations (R21). -/
  txdIdle : s.txd = true
  /-- R31, R163. -/
  lenBounded : s.len.toNat ≤ lenBound s.pp
  /-- R78, R79, R82. -/
  resLegal : legalRes s.res = true
  /-- R22, R133. -/
  rowLines : s.rowSel = rowLinesAt s.par s.pp
  /-- R155. -/
  leds : s.led = ledLinesAt s
  /-- The latches hold what the position needs. -/
  latches : latchesAt s

/-- The bytes of IDENT that are on the line when the sequencer reaches a position (R158). -/
def identSent : PP → List Byte
  | .powerup => []
  | .ident i => identBytes.toList.take i.val
  | .row _ _ => identBytes.toList
  | .cycleEnd => identBytes.toList

/-- The position is inside STARTUP. -/
def inStartup : PP → Bool
  | .powerup => true
  | .ident _ => true
  | .row _ _ => false
  | .cycleEnd => false

/-- A group of a session: 1 to BUF_N data codes (R162). -/
def isGroup (g : List Byte) : Prop := 1 ≤ g.length ∧ g.length ≤ Config.bufN ∧ ∀ k ∈ g, isDataCode k

/-- Frames that fit between two instants, each beginning at or after the end of the one before (R101, R103). -/
def spaced (lo hi ui : Nat) (frames : List (Nat × Byte)) : Prop :=
  (∀ f ∈ frames, lo ≤ f.1 ∧ f.1 + Config.phases * ui ≤ hi) ∧
    frames.Pairwise fun a b => a.1 + Config.phases * ui ≤ b.1

/-- What a run has written to TXD so far is the given frames, whole and one after another (R101 to R103). -/
def Framed (s : State) (frames : List (Nat × Byte)) : Prop :=
  txdEvents s.trace = lineEvents s.par.uiTicks frames ∧ spaced 0 s.now s.par.uiTicks frames

/-- The session on the serial line: whole frames that carry IDENT as far as the position says, then groups, each
followed by one end marker; and only data codes in the buffer (R162). -/
def Session (s : State) : Prop :=
  (∀ k ∈ contents s, isDataCode k) ∧
  ∃ (frames : List (Nat × Byte)) (groups : List (List Byte)),
    Framed s frames ∧ (∀ g ∈ groups, isGroup g) ∧ (inStartup s.pp = true → groups = []) ∧
    frames.map Prod.snd = identSent s.pp ++ groups.flatMap fun g => g ++ [endMarker]

/-- A state without anything that only timing decides: durations, slack lengths and instants (R218). -/
def State.timeless (s : State) : State :=
  { s with
    now := 0
    slackQueue := []
    par := { s.par with
      uiTicks := 0, rowSettleTicks := 0, powerupTicks := 0, keySettleUi := 0, cycleDebounceTicks := 0 }
    trace := s.trace.map fun e => { e with time := 0 } }

/-- An outcome without anything that only timing decides. -/
def timelessOut : Out → Out
  | .next s => .next s.timeless
  | .fault e => .fault e
  | .refused e => .refused e

/-- A state without the registers that are live only during a transmission (R32, R33). -/
def State.unlatched (s : State) : State := { s with txK := 0#_, txData := 0#_, flushIdx := 0#_ }

/-- An outcome without the registers that are live only during a transmission. -/
def unlatchedOut : Out → Out
  | .next s => .next s.unlatched
  | .fault e => .fault e
  | .refused e => .refused e

/-- Two states that differ at most in stale buffer entries, those at an index of LEN or above (R29, R166). -/
def sameButStale (s s' : State) : Prop :=
  (∀ i : Fin Config.bufN, i.val < s.len.toNat → s.buf[i] = s'.buf[i]) ∧ { s with buf := s'.buf } = s'

/-- The events of a trace extension happen in order, from one instant to another (R17, R63). -/
def inOrder (lo hi : Nat) (ext : List Event) : Prop :=
  (∀ e ∈ ext, lo ≤ e.time ∧ e.time ≤ hi) ∧ ext.Pairwise fun a b => a.time ≤ b.time

end Sys2Proof.Machine
end

