-- ==== Sys2Proof/Certificates/Slice0/Obligations.lean ====
section
/-! DEFINITION. The statements for the provers. Each docstring names the rules of spec/ it formalises, and the
log entry or decision where it rests on a choice. -/

open Sys2Proof Sys2Proof.Machine

/-! ## Encodings and decoding -/

/-- R73, R80, R86 to R89: words written out from the spec's encodings decode to the operations they stand for. -/
def Obligations.KnownWordsDecode : Prop :=
  decode (.opD8 0b01000101#_) = .ok (.txFrame 0x45#_) ∧
  decode (.opR3 .scn 0b100#_) = .ok (.scanRow 4#_) ∧
  decode (.opR3 .ctl 0b011#_) = .ok (.rowStep 3#_) ∧
  decode (.scanRes3 2#_ 0b000#_) = .ok .keyNone ∧
  decode (.scanRes3 3#_ 0b111#_) = .ok (.keyLookup 3#_ 3#_) ∧
  decode (.key8 0b01000101#_) = .ok .keyFlush ∧
  decode (.key8 0b01000011#_) = .ok .keyClear ∧
  decode (.key8 0b01001101#_) = .ok (.keyData 0x4D#_) ∧
  decode (.seq .startup) = .ok .startup ∧
  decode (.seq .cycleEnd) = .ok .cycleEnd

/-- R80: the KEY8 decoder tests `E`, then `C`, and takes any other value as data; a scanner result without the valid
bit selects KEY.NONE and no key code. -/
def Obligations.KeyDecoderIsTotal : Prop :=
  (∀ key : Byte,
    decode (.key8 key) =
      .ok (if key = 0x45#_ then .keyFlush else if key = 0x43#_ then .keyClear else .keyData key)) ∧
  ∀ row : RowNum, decode (.scanRes3 row 0b000#_) = .ok .keyNone

/-- R80, R82, R85 to R89: decoding the word of a well-formed operation gives the operation back. -/
def Obligations.DecodeEncodeRoundTrip : Prop :=
  ∀ i : Instr, i.wellFormed = true → decode (encode i) = .ok i

/-- R78, R80, R82, R88: of the words the decoder refuses exactly the three reserved scanner results; of the words with
a legal row it gives only well-formed operations. That a word with a row of 5 to 7, which R82 reserves too, is decoded
and left to the operation to fault on, is the model's reading (assumption log entry 22). -/
def Obligations.DecoderRefusesOnlyReservedResults : Prop :=
  ∀ w : OpWord,
    (decode w = .error .resultRange ↔
      ∃ row res, w = .scanRes3 row res ∧ (res = 0b001#_ ∨ res = 0b010#_ ∨ res = 0b011#_)) ∧
    ∀ i, decode w = .ok i →
      (∀ unit r, w = .opR3 unit r → legalRow r = true) →
      (∀ row res, w = .scanRes3 row res → legalRow row = true) →
      i.wellFormed = true

/-- R79, R127: the result is 000 when no column rises, and otherwise the lowest column that rises; a column rises
when it is at the active level now and was not in the previous sample. -/
def Obligations.PriorityEncoderTakesLowestColumn : Prop :=
  ∀ (p : Params) (sample prev : Cols),
    let rises (c : ColNum) : Prop :=
      sample.getLsbD c.toNat = p.colActiveLevel ∧ prev.getLsbD c.toNat ≠ p.colActiveLevel
    ((∀ c, ¬ rises c) → prio (edges p sample prev) = 0b000#_) ∧
    ∀ c, rises c → (∀ c' : ColNum, c' < c → ¬ rises c') → prio (edges p sample prev) = 1#1 ++ c

/-- R126: lane by lane, an edge is a column that is at the active level and was not in the previous sample; at
the active level 0 this is `~s & SNAP[r]`. -/
def Obligations.EdgeDetectorWorksLaneByLane : Prop :=
  ∀ (p : Params) (sample prev : Cols),
    (∀ c : Fin Config.nCols, (edges p sample prev).getLsbD c.val =
      (sample.getLsbD c.val == p.colActiveLevel && !(prev.getLsbD c.val == p.colActiveLevel))) ∧
    (p.colActiveLevel = false → edges p sample prev = ~~~sample &&& prev)

/-- R76, R77 (the polarities and the one-hot indicator are decisions D7, D9 and D10; LED_ON_LEVEL = 0 is assumption log
entry 9): `ROW_ONE(r)` has bit r, and no other, at the active level, and `ROW_IDLE` has no bit there; `IND(c)` has bit
c, and no other, at the level that lights an LED, and `LED_OFF` has no bit there. -/
def Obligations.RowAndLedLinesSelectOne : Prop :=
  ∀ p : Params,
    (∀ r j : Fin Config.nRows,
      ((rowOne p (rowNum r)).getLsbD j.val = p.rowActiveLevel ↔ j = r) ∧
      (rowIdle p).getLsbD j.val ≠ p.rowActiveLevel) ∧
    ∀ c j : Fin Config.nCols,
      ((ind p (BitVec.ofNat _ c.val)).getLsbD j.val = p.ledOnLevel ↔ j = c) ∧
      (ledOff p).getLsbD j.val ≠ p.ledOnLevel

/-- R137: the ideal matrix shows as active exactly the columns whose keys are held (the polarities are decisions
D7 and D8, assumption log entry 9). -/
def Obligations.IdealMatrixShowsPressedKeys : Prop :=
  ∀ (p : Params) (pressed : Cols),
    act p (idealSample p pressed) = pressed ∧
    ∀ c : Fin Config.nCols, ((idealSample p pressed).getLsbD c.val = p.colActiveLevel ↔ pressed.getLsbD c.val = true)

/-! ## Reset -/

/-- R201, with the reset values the spec decides (D12 to D16, D37; assumption log entry 8): what reset leaves, and the
reference values of the sizes that its widths come from (R2 to R4, R11, R19). -/
def Obligations.ResetLeavesTheLinesIdle : Prop :=
  Config.nRows = 5 ∧ Config.nCols = 4 ∧ Config.bufN = 8 ∧ Config.dataBits = 8 ∧ Config.identLen = 5 ∧
  State.reset.txd = true ∧ State.reset.rowSel = 0b11111#_ ∧ State.reset.led = 0b0000#_ ∧
  (∀ r : Fin Config.nRows, State.reset.snap[r] = 0b1111#_) ∧ State.reset.len = 0#_ ∧
  State.reset.pp = .powerup ∧ State.reset.now = 0 ∧
  1 ≤ State.reset.par.uiTicks ∧ State.reset.par.keySettleUi = 8 ∧
  State.reset.par.cycleDebounceTicks = 384 * State.reset.par.uiTicks

/-- The invariant holds right after reset, whatever the parameters and the snapshots (R201). The reset values of
TXD, the row lines, the LEDs and LEN are the spec's decisions D12, D13, D14 and D16 (assumption log entry 8); that
the scanner result is 000 at reset, a legal value, is the model's choice (assumption log entry 7). -/
def Obligations.ResetMeetsTheInvariant : Prop :=
  Inv State.reset ∧ ∀ (p : Params) (snap : Vector Cols Config.nRows), Inv (State.resetWith p snap)

/-- The session on the line is empty right after reset, and so is the buffer (R158, R162; that LEN is 0 at reset is
decision D16, assumption log entry 8). -/
def Obligations.ResetStartsTheSession : Prop :=
  Session State.reset ∧ ∀ (p : Params) (snap : Vector Cols Config.nRows), Session (State.resetWith p snap)

/-! ## The transmitter -/

/-- R102 (the intervals are R101's, the leading slack is decision D6): TX.FRAME completes, and phase k of the frame
holds the level `F(d)[k]` over its whole interval, with `F(d) = {1, d, 0}`. -/
def Obligations.TxFrameWaveform : Prop :=
  ∀ (d : Byte) (s : State), Legal s →
    frameWord d = (1#1 ++ d ++ 0#1 : BitVec (1 + Config.dataBits + 1)) ∧
    ∃ t, exec (.txFrame d) s = .next t ∧
      ∀ (init : Bool) (k : Fin Config.phases) (u : Nat),
        s.now + s.slackAt 0 + k.val * s.par.uiTicks ≤ u →
        u < s.now + s.slackAt 0 + (k.val + 1) * s.par.uiTicks →
        txdAt init t.trace u = (frameWord d).getLsbD k.val

/-- R101 (R70, R100, R106; the leading slack is decision D6): TX.FRAME writes TXD ten times, one UI apart, and nothing
else on the lines; it takes its slack and ten UI, and leaves the line idle. -/
def Obligations.TxFrameTakesTenPhases : Prop :=
  ∀ (d : Byte) (s : State), Legal s →
    ∃ t, exec (.txFrame d) s = .next t ∧
      t.trace = s.trace ++ (List.range Config.phases).map (fun k =>
        ({ time := s.now + s.slackAt 0 + k * s.par.uiTicks, signal := .txd ((frameWord d).getLsbD k) } : Event)) ∧
      t.now = s.now + s.slackAt 0 + Config.phases * s.par.uiTicks ∧
      t.txd = true

/-- R103: between two frames in a row the line is 1 from the first one's stop phase to the second one's start phase,
which is one UI and the second one's slack later, and the start phase is 0. -/
def Obligations.FramesKeepAStopGap : Prop :=
  ∀ (d e : Byte) (s : State), Legal s →
    ∃ t v, exec (.txFrame d) s = .next t ∧ exec (.txFrame e) t = .next v ∧
      t.now + t.slackAt 0 = s.now + s.slackAt 0 + (Config.phases - 1) * s.par.uiTicks + s.par.uiTicks + t.slackAt 0 ∧
      (∀ (init : Bool) (u : Nat), s.now + s.slackAt 0 + (Config.phases - 1) * s.par.uiTicks ≤ u →
        u < t.now + t.slackAt 0 → txdAt init v.trace u = true) ∧
      (0 < s.par.uiTicks → ∀ init : Bool, txdAt init v.trace (t.now + t.slackAt 0) = false)

/-- R104 (derived in the spec; R84): where a run has written whole frames to TXD, a listener that waits for a 1-to-0
transition of the waveform, reads each data phase anywhere inside its interval and waits again after the frame recovers
the bytes of the frames in order, and the byte-level view of the writes is the same; TX.FRAME adds one whole frame with
its operand, and a listener that saw that frame's start edge recovers the operand. -/
def Obligations.ListenerRecoversTheByte : Prop :=
  (∀ (s : State) (frames : List (Nat × Byte)) (off : Nat → Nat → Nat), Framed s frames →
    (∀ t0 i, off t0 i < s.par.uiTicks) →
    heard off s = frames.map Prod.snd ∧ sentBytes s.trace = frames.map Prod.snd) ∧
  ∀ (d : Byte) (s : State) (off : Nat → Nat), Legal s → (∀ i, off i < s.par.uiTicks) →
    ∃ t ext, exec (.txFrame d) s = .next t ∧ t.trace = s.trace ++ ext ∧
      listenerByte (txdAt s.txd t.trace) (s.now + s.slackAt 0) s.par.uiTicks off = d ∧
      sentBytes ext = [d] ∧
      ∀ frames, Framed s frames → Framed t (frames ++ [(s.now + s.slackAt 0, d)])

/-- R100, R150, R158 (states written): an operation that only transmits leaves the row lines, the LEDs, the
snapshots, the buffer's entries, the position, the latches, the parameters and the environment's samples alone;
TX.FRAME and STARTUP leave LEN alone too. That the position stays, which the step alone moves, is the model's choice
(assumption log entry 15); R20 and R32 have the operations move it. -/
def Obligations.TransmittingOperationsFrame : Prop :=
  ∀ (i : Instr) (s t : State),
    ((∃ d, i = .txFrame d) ∨ i = .startup ∨ i = .flush ∨ i = .keyFlush ∨ i = .forceFlush) →
    exec i s = .next t →
      t.rowSel = s.rowSel ∧ t.led = s.led ∧ t.ledSave = s.ledSave ∧ t.snap = s.snap ∧ t.buf = s.buf ∧
      t.pp = s.pp ∧ t.res = s.res ∧ t.key = s.key ∧ t.par = s.par ∧
      t.colQueue = s.colQueue ∧ t.sampleIdx = s.sampleIdx ∧
      (((∃ d, i = .txFrame d) ∨ i = .startup) → t.len = s.len ∧ t.flushIdx = s.flushIdx)

/-- R21, R100: only the transmitting operations and ROW.STEP, which may flush, write TXD. -/
def Obligations.OtherOperationsLeaveTxdAlone : Prop :=
  ∀ (i : Instr) (s t : State),
    ((∃ r, i = .scanRow r) ∨ i = .keyNone ∨ (∃ r c, i = .keyLookup r c) ∨ i = .keyClear ∨ (∃ k, i = .keyData k) ∨
      i = .cycleEnd) →
    exec i s = .next t →
      t.txd = s.txd ∧ t.txK = s.txK ∧ t.txData = s.txData ∧ t.flushIdx = s.flushIdx ∧
      txdLevels t.trace = txdLevels s.trace

/-! ## The scanner -/

/-- R122, R123, R128 (R120; slack is decision D6, one instant for all four columns is D19): SCAN.ROW selects the
row, settles, samples, reports the edge and stores the sample in that row's snapshot alone; and its frame. -/
def Obligations.ScanRowSamplesAndStores : Prop :=
  ∀ (r : Fin Config.nRows) (s : State), Legal s →
    ∃ t, exec (.scanRow (rowNum r)) s = .next t ∧
      t.rowSel = rowOne s.par (rowNum r) ∧
      t.res = prio (edges s.par s.nextSample s.snap[r]) ∧
      t.snap[r] = s.nextSample ∧ (∀ j : Fin Config.nRows, j ≠ r → t.snap[j] = s.snap[j]) ∧
      t.now = s.now + s.par.rowSettleTicks + s.slackAt 0 ∧
      t.trace = s.trace ++
        [{ time := s.now, signal := .rowSel (rowOne s.par (rowNum r)) },
         { time := t.now, signal := .sample s.nextSample }] ∧
      t.colQueue = s.colQueue.tail ∧ t.sampleIdx = s.sampleIdx + 1 ∧
      t.txd = s.txd ∧ t.led = s.led ∧ t.ledSave = s.ledSave ∧ t.buf = s.buf ∧ t.len = s.len ∧ t.pp = s.pp ∧
      t.flushIdx = s.flushIdx ∧ t.txK = s.txK ∧ t.txData = s.txData ∧ t.key = s.key ∧ t.par = s.par

/-- R130: a column seen active after a scan that saw it inactive has an edge, and is reported unless a lower column
has one; on the next scan of the row it has none and is not reported; and no scan reports a column that is not
active now, or that was active in the scan before (R131). -/
def Obligations.HeldKeyFiresOnce : Prop :=
  ∀ (r : Fin Config.nRows) (s : State) (c : ColNum), Legal s →
    (act s.par s.nextSample).getLsbD c.toNat = true →
    (act s.par s.snap[r]).getLsbD c.toNat = false →
    (edges s.par s.nextSample s.snap[r]).getLsbD c.toNat = true ∧
    ∃ t, exec (.scanRow (rowNum r)) s = .next t ∧
      ((∀ c' : ColNum, c' < c → (edges s.par s.nextSample s.snap[r]).getLsbD c'.toNat = false) →
        t.res = resOfCol c) ∧
      ∀ u : State, Legal u → u.par = t.par → u.snap[r] = t.snap[r] →
        (edges u.par u.nextSample u.snap[r]).getLsbD c.toNat = false ∧
        ∃ v, exec (.scanRow (rowNum r)) u = .next v ∧ v.res ≠ resOfCol c ∧
          ∀ c', v.res = resOfCol c' →
            (act u.par u.nextSample).getLsbD c'.toNat = true ∧ (act u.par u.snap[r]).getLsbD c'.toNat = false

/-- R129: of several edges in one sample only the lowest column is reported; another one is stored as active and
is not reported by the next scan of the row while its key stays pressed. -/
def Obligations.SimultaneousEdgesAreAbsorbed : Prop :=
  ∀ (r : Fin Config.nRows) (s : State) (c c' : ColNum), Legal s → c < c' →
    (edges s.par s.nextSample s.snap[r]).getLsbD c.toNat = true →
    (edges s.par s.nextSample s.snap[r]).getLsbD c'.toNat = true →
    (∀ c0 : ColNum, c0 < c → (edges s.par s.nextSample s.snap[r]).getLsbD c0.toNat = false) →
    ∃ t, exec (.scanRow (rowNum r)) s = .next t ∧ t.res = resOfCol c ∧
      (act s.par t.snap[r]).getLsbD c'.toNat = true ∧
      ∀ u : State, Legal u → u.par = t.par → u.snap[r] = t.snap[r] →
        ∃ v, exec (.scanRow (rowNum r)) u = .next v ∧ v.res ≠ resOfCol c'

/-- R132, R135: what SCAN.ROW reports and stores depends only on the parameters, the row, the sample and that
row's snapshot: two states that agree on those give the same result, row lines and snapshot. -/
def Obligations.ScanDependsOnItsRowOnly : Prop :=
  ∀ (r : Fin Config.nRows) (s s' : State), Legal s → Legal s' → s.par = s'.par →
    s.nextSample = s'.nextSample → s.snap[r] = s'.snap[r] →
    ∃ t t', exec (.scanRow (rowNum r)) s = .next t ∧ exec (.scanRow (rowNum r)) s' = .next t' ∧
      t.res = t'.res ∧ t.rowSel = t'.rowSel ∧ t.snap[r] = t'.snap[r]

/-! ## The key operations -/

/-- R50, R52, R73, R142 (ASCII is decision D11, assumption log entry 10): KEY.LOOKUP reads the code at index `4·r +
c` of `P 1 2 3 / T 4 5 6 / M 7 8 9 / B C 0 E / O S L A` into the key latch and changes nothing else; `(3,3)` is the
flush code, `(3,1)` the clear code, every other position a data code; and each code stands at one position. That the
position stays, which the step alone moves, is the model's choice (assumption log entry 15). -/
def Obligations.KeyLookupReadsTheMap : Prop :=
  ∀ (r : Fin Config.nRows) (c : ColNum) (s : State), Legal s →
    let codes := "P123T456M789BC0EOSLA".toList.map fun x => BitVec.ofNat Config.dataBits x.toNat
    ∃ k, codes[Config.nCols * r.val + c.toNat]? = some k ∧
      exec (.keyLookup (rowNum r) c) s = .next { s with key := k } ∧
      (classify k = .flush ↔ r = 3 ∧ c = 3#_) ∧ (classify k = .clear ↔ r = 3 ∧ c = 1#_) ∧
      ∀ (r' : Fin Config.nRows) (c' : ColNum), keymap[Config.nCols * r'.val + c'.toNat]? = some k → r' = r ∧ c' = c

/-- R145: KEY.NONE changes nothing. That the position stays, which the step alone moves, is the model's choice
(assumption log entry 15). -/
def Obligations.KeyNoneChangesNothing : Prop :=
  ∀ s : State, Legal s → exec .keyNone s = .next s

/-- R147: KEY.DATA with room in the buffer writes `BUF[LEN]` and increments LEN, and changes nothing else. That the
position stays, which the step alone moves, is the model's choice (assumption log entry 15). -/
def Obligations.KeyDataAppends : Prop :=
  ∀ (key : Byte) (s : State), Legal s → s.len.toNat < Config.bufN →
    ∃ t, exec (.keyData key) s = .next t ∧
      t.buf[s.len.toNat]? = some key ∧ t.len.toNat = s.len.toNat + 1 ∧
      (∀ j : Fin Config.bufN, j.val ≠ s.len.toNat → t.buf[j] = s.buf[j]) ∧
      { t with buf := s.buf, len := s.len } = s ∧
      contents t = contents s ++ [key]

/-- R148: KEY.DATA with the buffer full drops the key: nothing is written. That the position stays, which the step
alone moves, is the model's choice (assumption log entry 15). -/
def Obligations.KeyDataDropsWhenFull : Prop :=
  ∀ (key : Byte) (s : State), Legal s → s.len.toNat = Config.bufN → exec (.keyData key) s = .next s

/-- R149: KEY.CLEAR sets LEN to 0 and writes nothing else; BUF keeps its entries and nothing is sent. That the
position stays, which the step alone moves, is the model's choice (assumption log entry 15). -/
def Obligations.KeyClearEmptiesTheBuffer : Prop :=
  ∀ s : State, Legal s → exec .keyClear s = .next { s with len := 0#_ }

/-- R146, R150 (the slack before each frame is decision D6): FLUSH and KEY.FLUSH of a buffer that holds something
send its codes in order and then the end marker, each as a whole frame, and leave LEN = 0; nothing but TXD is written
on the lines, and the time is ten UI a frame and the slacks. -/
def Obligations.FlushSendsTheBuffer : Prop :=
  ∀ (i : Instr) (s : State), i = .flush ∨ i = .keyFlush → Legal s → 0 < s.len.toNat →
    ∃ t ext, exec i s = .next t ∧ t.trace = s.trace ++ ext ∧
      sentBytes ext = contents s ++ [0x45#_] ∧ txdLevels ext = frameLevels (contents s ++ [0x45#_]) ∧
      (∀ e ∈ ext, ∃ v, e.signal = .txd v) ∧ t.len = 0#_ ∧
      t.now = s.now + Config.phases * (s.len.toNat + 1) * s.par.uiTicks + slackSum s (s.len.toNat + 1)

/-- R151: a flush of an empty buffer changes nothing: no byte, not even the end marker. -/
def Obligations.EmptyFlushSendsNothing : Prop :=
  ∀ (i : Instr) (s : State), i = .flush ∨ i = .keyFlush → Legal s → s.len = 0#_ → exec i s = .next s

/-- R152: FORCE.FLUSH of a full buffer sends the 8 codes and the end marker as whole frames and leaves LEN = 0; with
fewer codes it changes nothing. That the position stays, which the step alone moves, is the model's choice
(assumption log entry 15). -/
def Obligations.ForceFlushOnlyWhenFull : Prop :=
  ∀ s : State, Legal s →
    (s.len.toNat = Config.bufN → ∃ t ext, exec .forceFlush s = .next t ∧ t.trace = s.trace ++ ext ∧
      sentBytes ext = s.buf.toList ++ [0x45#_] ∧ txdLevels ext = frameLevels (s.buf.toList ++ [0x45#_]) ∧
      (∀ e ∈ ext, ∃ v, e.signal = .txd v) ∧ t.len = 0#_) ∧
    (s.len.toNat < Config.bufN → exec .forceFlush s = .next s)

/-- R157: up to 8 codes appended to an empty buffer and flushed go out in that order, followed by one end marker;
no codes, and nothing goes out. -/
def Obligations.AppendedCodesGoOutInOrder : Prop :=
  ∀ (codes : List Byte) (s : State), codes.length ≤ Config.bufN → Legal s → s.len = 0#_ →
    let sent := if codes = [] then [] else codes ++ [endMarker]
    ∃ t ext, execSeq (codes.map .keyData ++ [.keyFlush]) s = .next t ∧ t.trace = s.trace ++ ext ∧
      sentBytes ext = sent ∧ txdLevels ext = frameLevels sent ∧ t.len = 0#_

/-- R165: after eight appends and the forced flush, a ninth code starts a new buffer. -/
def Obligations.NinthCodeStartsANewBuffer : Prop :=
  ∀ (codes : List Byte) (ninth : Byte) (s : State), codes.length = Config.bufN → Legal s → s.len = 0#_ →
    ∃ t ext, execSeq ((codes ++ [ninth]).flatMap fun k => [.keyData k, .forceFlush]) s = .next t ∧
      t.trace = s.trace ++ ext ∧ sentBytes ext = codes ++ [0x45#_] ∧
      txdLevels ext = frameLevels (codes ++ [0x45#_]) ∧ t.len = 1#_ ∧ t.buf[0] = ninth

/-- R29, R166: entries at an index of LEN or above never change what a flush sends, or anything else it does. -/
def Obligations.StaleEntriesAreNeverSent : Prop :=
  ∀ (i : Instr) (s s' : State), i = .flush ∨ i = .keyFlush ∨ i = .forceFlush → Legal s → sameButStale s s' →
    ∃ t t', exec i s = .next t ∧ exec i s' = .next t' ∧ { t with buf := t'.buf } = t'

/-! ## ROW.STEP, CYCLE.END and STARTUP -/

/-- R141, R144 to R152: on the buffer seen as a list, ROW.STEP does what the dispatch rules say: what it sends and
what it leaves is `rowOutcome` of the key that fired, and each byte it sends is a whole frame. -/
def Obligations.RowStepRefinesTheDispatch : Prop :=
  ∀ (r : Fin Config.nRows) (s : State), Legal s →
    ∃ t ext, exec (.rowStep (rowNum r)) s = .next t ∧ t.trace = s.trace ++ ext ∧
      (sentBytes ext, contents t) = rowOutcome (firedKey r s) (contents s) ∧
      txdLevels ext = frameLevels (sentBytes ext)

/-- R134, R153, R215 (the slacks are decision D6): how long ROW.STEP takes: the row settle, eight UI if a key
fired, ten UI for each byte sent, and the slacks. -/
def Obligations.RowStepDuration : Prop :=
  ∀ (r : Fin Config.nRows) (s : State), Legal s →
    let fired := resValid (scanResult r s)
    let sent := (rowOutcome (firedKey r s) (contents s)).1.length
    ∃ t, exec (.rowStep (rowNum r)) s = .next t ∧
      t.now = s.now + s.par.rowSettleTicks + (if fired then s.par.keySettleUi * s.par.uiTicks else 0) +
        Config.phases * sent * s.par.uiTicks + slackSum s (4 + (if fired then 1 else 0) + sent)

/-- R133, R141: ROW.STEP selects its row once and leaves it selected (decision D24), takes the one sample, stores it
in its row's snapshot alone, and leaves the parameters alone. That the position stays, which the step alone moves,
is the model's choice (assumption log entry 15); R32 has the row end at the next position. -/
def Obligations.RowStepSelectsAndSamplesOnce : Prop :=
  ∀ (r : Fin Config.nRows) (s : State), Legal s →
    ∃ t ext, exec (.rowStep (rowNum r)) s = .next t ∧ t.trace = s.trace ++ ext ∧
      rowSelWrites ext = [(s.now + s.slackAt 0, rowOne s.par (rowNum r))] ∧
      t.rowSel = rowOne s.par (rowNum r) ∧ samplesOf ext = [s.nextSample] ∧
      t.snap[r] = s.nextSample ∧ (∀ j : Fin Config.nRows, j ≠ r → t.snap[j] = s.snap[j]) ∧
      t.pp = s.pp ∧ t.par = s.par ∧ t.colQueue = s.colQueue.tail ∧ t.sampleIdx = s.sampleIdx + 1

/-- R154 (and R143): ROW.STEP ends with the LED value it began with, whether or not a key fired; if one fired, the LED
shows its column alone from the sample to the end. -/
def Obligations.RowStepShowsTheColumn : Prop :=
  ∀ (r : Fin Config.nRows) (s : State), Legal s →
    ∃ t ext, exec (.rowStep (rowNum r)) s = .next t ∧ t.trace = s.trace ++ ext ∧
      t.led = s.led ∧ t.ledSave = s.led ∧
      ledWrites ext =
        (if resValid (scanResult r s) then
          [(s.now + s.slackAt 0 + s.par.rowSettleTicks + s.slackAt 1, ind s.par (resCol (scanResult r s)))]
        else []) ++ [(t.now, s.led)]

/-- R141, R147 (what a row may write): ROW.STEP writes no buffer entry but the one at LEN, and without a key that is
appended none at all; without a key the key latch keeps its value; a line that was idle is idle again. -/
def Obligations.RowStepFrame : Prop :=
  ∀ (r : Fin Config.nRows) (s t : State), exec (.rowStep (rowNum r)) s = .next t →
    (∀ j : Fin Config.bufN, j.val ≠ s.len.toNat → t.buf[j] = s.buf[j]) ∧
    ((∀ k, firedKey r s = some k → classify k ≠ .data) → t.buf = s.buf) ∧
    (firedKey r s = none → t.key = s.key) ∧
    (s.txd = true → t.txd = true)

/-- R145: a row in which no column fires leaves the LED, BUF, LEN, the transmitter and the key latch as they were,
when the buffer is not full, and sends nothing. -/
def Obligations.QuietRowChangesNoKeyState : Prop :=
  ∀ (r : Fin Config.nRows) (s : State), Legal s → s.len.toNat < Config.bufN → scanResult r s = 0b000#_ →
    ∃ t, exec (.rowStep (rowNum r)) s = .next t ∧
      t.led = s.led ∧ t.buf = s.buf ∧ t.len = s.len ∧ t.txd = s.txd ∧ t.txK = s.txK ∧ t.txData = s.txData ∧
      t.flushIdx = s.flushIdx ∧ t.key = s.key ∧ txdLevels t.trace = txdLevels s.trace

/-- R31, R163: from a legal LEN, ROW.STEP ends with LEN at most 7. -/
def Obligations.RowStepLeavesRoom : Prop :=
  ∀ (r : Fin Config.nRows) (s : State), Legal s →
    ∃ t, exec (.rowStep (rowNum r)) s = .next t ∧ t.len.toNat < Config.bufN

/-- R160 (its leading slack is decision D6): CYCLE.END turns the LEDs off, idles the rows and holds; nothing else
changes. That the position stays, which the step alone moves, is the model's choice (assumption log entry 15); R161
has it go to row 0. -/
def Obligations.CycleEndIdlesAndHolds : Prop :=
  ∀ s : State, Legal s →
    ∃ t, exec .cycleEnd s = .next t ∧
      t.led = ledOff s.par ∧ t.rowSel = rowIdle s.par ∧
      t.now = s.now + s.slackAt 0 + s.par.cycleDebounceTicks ∧
      t.trace = s.trace ++
        [{ time := s.now + s.slackAt 0, signal := .led (ledOff s.par) },
         { time := s.now + s.slackAt 0, signal := .rowSel (rowIdle s.par) }] ∧
      { t with
        led := s.led, rowSel := s.rowSel, now := s.now, trace := s.trace, slackQueue := s.slackQueue,
        slackIdx := s.slackIdx } = s

/-- R158 (the slack before each frame is decision D6): STARTUP holds the power-stabilisation delay and sends
`I N I T E`, each as a whole frame; it writes nothing but TXD, samples nothing, and takes 50 UI besides the
hold and the slacks. -/
def Obligations.StartupSendsIdent : Prop :=
  ∀ s : State, Legal s →
    ∃ t ext, exec .startup s = .next t ∧ t.trace = s.trace ++ ext ∧
      sentBytes ext = [0x49#_, 0x4E#_, 0x49#_, 0x54#_, 0x45#_] ∧
      txdLevels ext = frameLevels [0x49#_, 0x4E#_, 0x49#_, 0x54#_, 0x45#_] ∧ (∀ e ∈ ext, ∃ v, e.signal = .txd v) ∧
      (∀ e ∈ ext, s.now + s.par.powerupTicks ≤ e.time) ∧
      t.now = s.now + s.par.powerupTicks + Config.phases * Config.identLen * s.par.uiTicks +
        slackSum s Config.identLen ∧
      t.rowSel = s.rowSel ∧ t.led = s.led ∧ t.snap = s.snap ∧ t.buf = s.buf ∧ t.len = s.len

/-! ## The sequencer and its steps -/

/-- R32, R88, R89, R140: where the position selects a word that decodes, the step is exec of the decoded operation
between the position's other statements; where it selects none, the step is those statements; a word the decoder
refuses is the RESULT_RANGE fault (R82, R184). What a position is, so what `before` and `finish` hold, and that a
refused word is found by the decoder, are the model's choices (assumption log entries 15 and 22). -/
def Obligations.StepRunsTheDecodedOperation : Prop :=
  ∀ s : State,
    (Legal s →
      (∀ w i, opWord s = some w → decode w = .ok i →
        step s = andThen (exec i (before s)) fun t => .next (finish t)) ∧
      (opWord s = none → step s = .next (finish (before s)))) ∧
    (s.len.toNat ≤ Config.bufN → ∀ w e, opWord s = some w → decode w = .error e → step s = .fault .resultRange)

/-- Assumption log entries 13 and 14: a table word that is placed is decoded and run by the next step. -/
def Obligations.PlacedWordRunsNext : Prop :=
  ∀ (s : State) (nbits w : Nat) (i : Instr), Legal s → decodeTableWord nbits w = some i →
    step (s.withFetchWord nbits w) = andThen (exec i (s.withFetchWord nbits w)) fun t => .next (finish t)

/-- R153: at the settle position the step holds `KEY_SETTLE_UI · UI_TICKS` ticks if a key fired in the row, whatever
the dispatch did, and none otherwise, and then goes on to the restore. -/
def Obligations.SettleHoldAfterAKey : Prop :=
  ∀ (r : Fin Config.nRows) (s : State), Legal s → s.pp = .row r .settle →
    step s = .next { s with
      now := s.now + (if resValid s.res then s.par.keySettleUi * s.par.uiTicks else 0)
      pp := .row r .restore }

/-- R32, R141, R156: from the start of row r, the steps of its positions do what ROW.STEP r does, and lead to the
position after it. That they are seven, or six when no key fires, is the model's choice: R32 has six sub-positions, and
the model cuts DISPATCH in two (assumption log entry 15). -/
def Obligations.StepsOfARowAreRowStep : Prop :=
  ∀ (r : Fin Config.nRows) (s : State), Legal s → s.pp = .row r .scan →
    ∃ t, exec (.rowStep (rowNum r)) s = .next t ∧
      steps (if resValid (scanResult r s) then 7 else 6) s = .next (t.setPp (rowAfter r))

/-- R32, R158, R159: from PP_POWERUP the steps of its positions do what STARTUP does, and lead to row 0. That they are
one for the hold and one for each frame is the model's choice (assumption log entry 15). -/
def Obligations.StepsFromPowerupAreStartup : Prop :=
  ∀ s : State, Legal s → s.pp = .powerup →
    ∃ t, exec .startup s = .next t ∧ steps (Config.identLen + 1) s = .next (t.setPp (.row 0 .scan))

/-- R140, R156, R160, R161: from the start of row 0 the block runs the whole scan cycle, rows 0 to 4 in order and
CYCLE.END, and is at the start of row 0 again. That this takes 31 to 36 steps counts the model's own positions
(assumption log entry 15). -/
def Obligations.ScanCycleReturnsToRowZero : Prop :=
  ∀ s : State, Legal s → s.pp = .row 0 .scan →
    ∃ t n, execSeq scanCycle s = .next t ∧ 6 * Config.nRows + 1 ≤ n ∧ n ≤ 7 * Config.nRows + 1 ∧
      steps n s = .next (t.setPp (.row 0 .scan))

/-- R216: a scan cycle lasts at least five row settles and one inter-cycle hold, whatever fires and whatever the
slacks are. -/
def Obligations.ScanCycleSpacing : Prop :=
  ∀ s : State, Legal s →
    ∃ t, execSeq scanCycle s = .next t ∧
      s.now + Config.nRows * s.par.rowSettleTicks + s.par.cycleDebounceTicks ≤ t.now

/-- R22, R31, R76, R133, R155, R163: every step keeps the invariant of the positions. That a row's line stays
selected until the next select is decision D24. -/
def Obligations.StepKeepsTheInvariant : Prop :=
  ∀ s t : State, Inv s → step s = .next t → Inv t

/-- R180, R182: from a state that meets the invariant the block never stops. -/
def Obligations.InvariantStateNeverStops : Prop :=
  ∀ s : State, Inv s → ∃ t, step s = .next t

/-- R162 (and R101 to R103): every step keeps the session on the line: whole frames, one after another, that carry
IDENT and then groups of 1 to 8 data codes, each followed by one `E`. -/
def Obligations.StepKeepsTheSession : Prop :=
  ∀ s t : State, Inv s → Session s → step s = .next t → Session t

/-- R36, R63 (and R101, R103, R107): no operation turns time back, and what it writes is recorded in order between its
start and its end; whole frames on the line stay whole, and what is added to them is whole frames after them. -/
def Obligations.OperationsKeepTimeOrder : Prop :=
  ∀ (i : Instr) (s t : State), exec i s = .next t →
    (∃ ext, t.trace = s.trace ++ ext ∧ s.now ≤ t.now ∧ inOrder s.now t.now ext) ∧
    ∀ frames, Framed s frames → ∃ more, Framed t (frames ++ more)

/-- R36, R63 (and R101, R103, R107): the same of every step. -/
def Obligations.StepsKeepTimeOrder : Prop :=
  ∀ s t : State, step s = .next t →
    (∃ ext, t.trace = s.trace ++ ext ∧ s.now ≤ t.now ∧ inOrder s.now t.now ext) ∧
    ∀ frames, Framed s frames → ∃ more, Framed t (frames ++ more)

/-- R37, R51: no step changes a build-time parameter, and no operation does. That no operation moves the sequencer's
position, which the step alone moves, is the model's choice (assumption log entry 15); R20 has the operations move
it. -/
def Obligations.ParametersAreFixed : Prop :=
  (∀ (i : Instr) (s t : State), exec i s = .next t → t.par = s.par ∧ t.pp = s.pp) ∧
  ∀ s t : State, step s = .next t → t.par = s.par

/-- R218: the byte values, the registers and the order of the writes do not depend on any duration or slack: states
that differ only in those lead to outcomes that differ only in those, for every operation and for the step. -/
def Obligations.BehaviourIsIndependentOfTiming : Prop :=
  ∀ s s' : State, s.timeless = s'.timeless →
    (∀ i : Instr, timelessOut (exec i s) = timelessOut (exec i s')) ∧
    timelessOut (step s) = timelessOut (step s')

/-- R32, R33 (that they are dead is item I6 of the spec; assumption log entry 16): outside a transmission the phase
index, the data latch and the flush's byte index never matter: states that differ only in those lead to outcomes that
differ only in those, for every operation and for the step. -/
def Obligations.TransmitterLatchesAreDead : Prop :=
  ∀ s s' : State, s.unlatched = s'.unlatched →
    (∀ i : Instr, unlatchedOut (exec i s) = unlatchedOut (exec i s')) ∧
    unlatchedOut (step s) = unlatchedOut (step s')

/-! ## Model faults -/

/-- R82, R121, R184: SCAN.ROW and ROW.STEP with a row of 5 to 7 are the ROW_RANGE fault. -/
def Obligations.ReservedRowFaults : Prop :=
  ∀ (r : RowNum) (s : State), Legal s → Config.nRows ≤ r.toNat →
    exec (.scanRow r) s = .fault .rowRange ∧ exec (.rowStep r) s = .fault .rowRange

/-- R82, R184: KEY.LOOKUP with a key index of 20 to 31 is the KEY_INDEX_RANGE fault. -/
def Obligations.ReservedKeyIndexFaults : Prop :=
  ∀ (r : RowNum) (c : ColNum) (s : State), Legal s →
    Config.nRows * Config.nCols ≤ Config.nCols * r.toNat + c.toNat →
    exec (.keyLookup r c) s = .fault .keyIndexRange

/-- R31, R82, R184 (that every operation tests the registers is assumption log entry 11): a state with LEN above 8 is
the LEN_RANGE fault, and one with a reserved scanner result the RESULT_RANGE fault, for every operation and for the
step. -/
def Obligations.IllegalStatesFault : Prop :=
  ∀ s : State,
    (Config.bufN < s.len.toNat → (∀ i : Instr, exec i s = .fault .lenRange) ∧ step s = .fault .lenRange) ∧
    (s.len.toNat ≤ Config.bufN → s.res = 0b001#_ ∨ s.res = 0b010#_ ∨ s.res = 0b011#_ →
      (∀ i : Instr, exec i s = .fault .resultRange) ∧ step s = .fault .resultRange)

/-- R180, R182, R184 (which states fault is assumption log entry 11): no operation is refused, an operation with legal
operands in a state with LEN at most 8 and a legal scanner result completes, and a step stops only on LEN above 8 or on
a reserved scanner result. -/
def Obligations.OnlyModelFaultsStop : Prop :=
  (∀ (i : Instr) (s : State) (e : Refusal), exec i s ≠ .refused e) ∧
  (∀ (i : Instr) (s : State), Legal s → i.wellFormed = true → ∃ t, exec i s = .next t) ∧
  ∀ s : State,
    (∃ t, step s = .next t) ∨
    (Config.bufN < s.len.toNat ∧ step s = .fault .lenRange) ∨
    (s.len.toNat ≤ Config.bufN ∧ legalRes s.res = false ∧ step s = .fault .resultRange)
end

