-- ==== Sys2Proof/Laws/Sizes.lean ====
section
/-! SUPPORT. Every register is wide enough for the numbers it counts, whatever the sizes are (D34). -/

namespace Sys2Proof.Config

/-- The width chosen for the numbers up to n holds them. -/
theorem lt_bitsFor (n : Nat) : n < 2 ^ bitsFor n := Nat.lt_log2_self

/-- A number below a size fits the width chosen for the numbers below that size. -/
theorem lt_bitsFor_pred {k n : Nat} (h : k < n) : k < 2 ^ bitsFor (n - 1) :=
  Nat.lt_of_le_of_lt (Nat.le_sub_one_of_lt h) (lt_bitsFor (n - 1))

/-- A phase index fits TX_K. -/
theorem toNat_phaseNum {k : Nat} (h : k < phases) : (BitVec.ofNat phaseBits k).toNat = k := by
  rw [BitVec.toNat_ofNat, Nat.mod_eq_of_lt (lt_bitsFor_pred h)]

/-- A row fits a row operand. -/
theorem toNat_rowNum {r : Nat} (h : r < nRows) : (BitVec.ofNat rowBits r).toNat = r := by
  rw [BitVec.toNat_ofNat, Nat.mod_eq_of_lt (lt_bitsFor_pred h)]

/-- A column fits a column number. -/
theorem toNat_colNum {c : Nat} (h : c < nCols) : (BitVec.ofNat colBits c).toNat = c := by
  rw [BitVec.toNat_ofNat, Nat.mod_eq_of_lt (lt_bitsFor_pred h)]

/-- A count of buffer entries fits LEN. -/
theorem toNat_len {n : Nat} (h : n ≤ bufN) : (BitVec.ofNat lenBits n).toNat = n := by
  rw [BitVec.toNat_ofNat, Nat.mod_eq_of_lt (Nat.lt_of_le_of_lt h (lt_bitsFor bufN))]

/-- A count below the size counts one more without wrapping. -/
theorem toNat_len_succ {l : Len} (h : l.toNat < bufN) : (l + 1#_).toNat = l.toNat + 1 := by
  have hs : l.toNat + 1 < 2 ^ lenBits := Nat.lt_of_le_of_lt h (lt_bitsFor bufN)
  have h1 : (1#lenBits).toNat = 1 := toNat_len (Nat.lt_of_le_of_lt (Nat.zero_le _) h)
  rw [BitVec.toNat_add, h1, Nat.mod_eq_of_lt hs]

end Sys2Proof.Config
end

