-- ==== Sys2Proof/Laws/State.lean ====
section
/-! SUPPORT. What each state update leaves in each field: true by unfolding, so that no later proof unfolds a
record update. -/

namespace Sys2Proof.Machine

section hold

variable (s : State) (d : Nat)

@[simp] theorem State.hold_txd : (s.hold d).txd = s.txd := rfl
@[simp] theorem State.hold_rowSel : (s.hold d).rowSel = s.rowSel := rfl
@[simp] theorem State.hold_led : (s.hold d).led = s.led := rfl
@[simp] theorem State.hold_ledSave : (s.hold d).ledSave = s.ledSave := rfl
@[simp] theorem State.hold_snap : (s.hold d).snap = s.snap := rfl
@[simp] theorem State.hold_buf : (s.hold d).buf = s.buf := rfl
@[simp] theorem State.hold_len : (s.hold d).len = s.len := rfl
@[simp] theorem State.hold_pp : (s.hold d).pp = s.pp := rfl
@[simp] theorem State.hold_flushIdx : (s.hold d).flushIdx = s.flushIdx := rfl
@[simp] theorem State.hold_txK : (s.hold d).txK = s.txK := rfl
@[simp] theorem State.hold_txData : (s.hold d).txData = s.txData := rfl
@[simp] theorem State.hold_now : (s.hold d).now = s.now + d := rfl
@[simp] theorem State.hold_res : (s.hold d).res = s.res := rfl
@[simp] theorem State.hold_key : (s.hold d).key = s.key := rfl
@[simp] theorem State.hold_par : (s.hold d).par = s.par := rfl
@[simp] theorem State.hold_colQueue : (s.hold d).colQueue = s.colQueue := rfl
@[simp] theorem State.hold_sampleIdx : (s.hold d).sampleIdx = s.sampleIdx := rfl
@[simp] theorem State.hold_slackQueue : (s.hold d).slackQueue = s.slackQueue := rfl
@[simp] theorem State.hold_slackIdx : (s.hold d).slackIdx = s.slackIdx := rfl
@[simp] theorem State.hold_trace : (s.hold d).trace = s.trace := rfl

end hold

section slack

variable (s : State)

@[simp] theorem State.slack_txd : (s.slack).txd = s.txd := rfl
@[simp] theorem State.slack_rowSel : (s.slack).rowSel = s.rowSel := rfl
@[simp] theorem State.slack_led : (s.slack).led = s.led := rfl
@[simp] theorem State.slack_ledSave : (s.slack).ledSave = s.ledSave := rfl
@[simp] theorem State.slack_snap : (s.slack).snap = s.snap := rfl
@[simp] theorem State.slack_buf : (s.slack).buf = s.buf := rfl
@[simp] theorem State.slack_len : (s.slack).len = s.len := rfl
@[simp] theorem State.slack_pp : (s.slack).pp = s.pp := rfl
@[simp] theorem State.slack_flushIdx : (s.slack).flushIdx = s.flushIdx := rfl
@[simp] theorem State.slack_txK : (s.slack).txK = s.txK := rfl
@[simp] theorem State.slack_txData : (s.slack).txData = s.txData := rfl
@[simp] theorem State.slack_now : (s.slack).now = s.now + s.slackAt 0 := rfl
@[simp] theorem State.slack_res : (s.slack).res = s.res := rfl
@[simp] theorem State.slack_key : (s.slack).key = s.key := rfl
@[simp] theorem State.slack_par : (s.slack).par = s.par := rfl
@[simp] theorem State.slack_colQueue : (s.slack).colQueue = s.colQueue := rfl
@[simp] theorem State.slack_sampleIdx : (s.slack).sampleIdx = s.sampleIdx := rfl
@[simp] theorem State.slack_slackQueue : (s.slack).slackQueue = s.slackQueue.tail := rfl
@[simp] theorem State.slack_slackIdx : (s.slack).slackIdx = s.slackIdx + 1 := rfl
@[simp] theorem State.slack_trace : (s.slack).trace = s.trace := rfl

end slack

section emit

variable (s : State) (x : Signal)

@[simp] theorem State.emit_txd : (s.emit x).txd = s.txd := rfl
@[simp] theorem State.emit_rowSel : (s.emit x).rowSel = s.rowSel := rfl
@[simp] theorem State.emit_led : (s.emit x).led = s.led := rfl
@[simp] theorem State.emit_ledSave : (s.emit x).ledSave = s.ledSave := rfl
@[simp] theorem State.emit_snap : (s.emit x).snap = s.snap := rfl
@[simp] theorem State.emit_buf : (s.emit x).buf = s.buf := rfl
@[simp] theorem State.emit_len : (s.emit x).len = s.len := rfl
@[simp] theorem State.emit_pp : (s.emit x).pp = s.pp := rfl
@[simp] theorem State.emit_flushIdx : (s.emit x).flushIdx = s.flushIdx := rfl
@[simp] theorem State.emit_txK : (s.emit x).txK = s.txK := rfl
@[simp] theorem State.emit_txData : (s.emit x).txData = s.txData := rfl
@[simp] theorem State.emit_now : (s.emit x).now = s.now := rfl
@[simp] theorem State.emit_res : (s.emit x).res = s.res := rfl
@[simp] theorem State.emit_key : (s.emit x).key = s.key := rfl
@[simp] theorem State.emit_par : (s.emit x).par = s.par := rfl
@[simp] theorem State.emit_colQueue : (s.emit x).colQueue = s.colQueue := rfl
@[simp] theorem State.emit_sampleIdx : (s.emit x).sampleIdx = s.sampleIdx := rfl
@[simp] theorem State.emit_slackQueue : (s.emit x).slackQueue = s.slackQueue := rfl
@[simp] theorem State.emit_slackIdx : (s.emit x).slackIdx = s.slackIdx := rfl
@[simp] theorem State.emit_trace : (s.emit x).trace = s.trace ++ [{ time := s.now, signal := x }] := rfl

end emit

section writeTxd

variable (s : State) (v : Bool)

@[simp] theorem State.writeTxd_txd : (s.writeTxd v).txd = v := rfl
@[simp] theorem State.writeTxd_rowSel : (s.writeTxd v).rowSel = s.rowSel := rfl
@[simp] theorem State.writeTxd_led : (s.writeTxd v).led = s.led := rfl
@[simp] theorem State.writeTxd_ledSave : (s.writeTxd v).ledSave = s.ledSave := rfl
@[simp] theorem State.writeTxd_snap : (s.writeTxd v).snap = s.snap := rfl
@[simp] theorem State.writeTxd_buf : (s.writeTxd v).buf = s.buf := rfl
@[simp] theorem State.writeTxd_len : (s.writeTxd v).len = s.len := rfl
@[simp] theorem State.writeTxd_pp : (s.writeTxd v).pp = s.pp := rfl
@[simp] theorem State.writeTxd_flushIdx : (s.writeTxd v).flushIdx = s.flushIdx := rfl
@[simp] theorem State.writeTxd_txK : (s.writeTxd v).txK = s.txK := rfl
@[simp] theorem State.writeTxd_txData : (s.writeTxd v).txData = s.txData := rfl
@[simp] theorem State.writeTxd_now : (s.writeTxd v).now = s.now := rfl
@[simp] theorem State.writeTxd_res : (s.writeTxd v).res = s.res := rfl
@[simp] theorem State.writeTxd_key : (s.writeTxd v).key = s.key := rfl
@[simp] theorem State.writeTxd_par : (s.writeTxd v).par = s.par := rfl
@[simp] theorem State.writeTxd_colQueue : (s.writeTxd v).colQueue = s.colQueue := rfl
@[simp] theorem State.writeTxd_sampleIdx : (s.writeTxd v).sampleIdx = s.sampleIdx := rfl
@[simp] theorem State.writeTxd_slackQueue : (s.writeTxd v).slackQueue = s.slackQueue := rfl
@[simp] theorem State.writeTxd_slackIdx : (s.writeTxd v).slackIdx = s.slackIdx := rfl
@[simp] theorem State.writeTxd_trace : (s.writeTxd v).trace = s.trace ++ [{ time := s.now, signal := .txd v }] := rfl

end writeTxd

section writeRowSel

variable (s : State) (v : Rows)

@[simp] theorem State.writeRowSel_txd : (s.writeRowSel v).txd = s.txd := rfl
@[simp] theorem State.writeRowSel_rowSel : (s.writeRowSel v).rowSel = v := rfl
@[simp] theorem State.writeRowSel_led : (s.writeRowSel v).led = s.led := rfl
@[simp] theorem State.writeRowSel_ledSave : (s.writeRowSel v).ledSave = s.ledSave := rfl
@[simp] theorem State.writeRowSel_snap : (s.writeRowSel v).snap = s.snap := rfl
@[simp] theorem State.writeRowSel_buf : (s.writeRowSel v).buf = s.buf := rfl
@[simp] theorem State.writeRowSel_len : (s.writeRowSel v).len = s.len := rfl
@[simp] theorem State.writeRowSel_pp : (s.writeRowSel v).pp = s.pp := rfl
@[simp] theorem State.writeRowSel_flushIdx : (s.writeRowSel v).flushIdx = s.flushIdx := rfl
@[simp] theorem State.writeRowSel_txK : (s.writeRowSel v).txK = s.txK := rfl
@[simp] theorem State.writeRowSel_txData : (s.writeRowSel v).txData = s.txData := rfl
@[simp] theorem State.writeRowSel_now : (s.writeRowSel v).now = s.now := rfl
@[simp] theorem State.writeRowSel_res : (s.writeRowSel v).res = s.res := rfl
@[simp] theorem State.writeRowSel_key : (s.writeRowSel v).key = s.key := rfl
@[simp] theorem State.writeRowSel_par : (s.writeRowSel v).par = s.par := rfl
@[simp] theorem State.writeRowSel_colQueue : (s.writeRowSel v).colQueue = s.colQueue := rfl
@[simp] theorem State.writeRowSel_sampleIdx : (s.writeRowSel v).sampleIdx = s.sampleIdx := rfl
@[simp] theorem State.writeRowSel_slackQueue : (s.writeRowSel v).slackQueue = s.slackQueue := rfl
@[simp] theorem State.writeRowSel_slackIdx : (s.writeRowSel v).slackIdx = s.slackIdx := rfl
@[simp] theorem State.writeRowSel_trace : (s.writeRowSel v).trace =
    s.trace ++ [{ time := s.now, signal := .rowSel v }] := rfl

end writeRowSel

section writeLed

variable (s : State) (v : Cols)

@[simp] theorem State.writeLed_txd : (s.writeLed v).txd = s.txd := rfl
@[simp] theorem State.writeLed_rowSel : (s.writeLed v).rowSel = s.rowSel := rfl
@[simp] theorem State.writeLed_led : (s.writeLed v).led = v := rfl
@[simp] theorem State.writeLed_ledSave : (s.writeLed v).ledSave = s.ledSave := rfl
@[simp] theorem State.writeLed_snap : (s.writeLed v).snap = s.snap := rfl
@[simp] theorem State.writeLed_buf : (s.writeLed v).buf = s.buf := rfl
@[simp] theorem State.writeLed_len : (s.writeLed v).len = s.len := rfl
@[simp] theorem State.writeLed_pp : (s.writeLed v).pp = s.pp := rfl
@[simp] theorem State.writeLed_flushIdx : (s.writeLed v).flushIdx = s.flushIdx := rfl
@[simp] theorem State.writeLed_txK : (s.writeLed v).txK = s.txK := rfl
@[simp] theorem State.writeLed_txData : (s.writeLed v).txData = s.txData := rfl
@[simp] theorem State.writeLed_now : (s.writeLed v).now = s.now := rfl
@[simp] theorem State.writeLed_res : (s.writeLed v).res = s.res := rfl
@[simp] theorem State.writeLed_key : (s.writeLed v).key = s.key := rfl
@[simp] theorem State.writeLed_par : (s.writeLed v).par = s.par := rfl
@[simp] theorem State.writeLed_colQueue : (s.writeLed v).colQueue = s.colQueue := rfl
@[simp] theorem State.writeLed_sampleIdx : (s.writeLed v).sampleIdx = s.sampleIdx := rfl
@[simp] theorem State.writeLed_slackQueue : (s.writeLed v).slackQueue = s.slackQueue := rfl
@[simp] theorem State.writeLed_slackIdx : (s.writeLed v).slackIdx = s.slackIdx := rfl
@[simp] theorem State.writeLed_trace : (s.writeLed v).trace = s.trace ++ [{ time := s.now, signal := .led v }] := rfl

end writeLed

section saveLed

variable (s : State)

@[simp] theorem State.saveLed_txd : (s.saveLed).txd = s.txd := rfl
@[simp] theorem State.saveLed_rowSel : (s.saveLed).rowSel = s.rowSel := rfl
@[simp] theorem State.saveLed_led : (s.saveLed).led = s.led := rfl
@[simp] theorem State.saveLed_ledSave : (s.saveLed).ledSave = s.led := rfl
@[simp] theorem State.saveLed_snap : (s.saveLed).snap = s.snap := rfl
@[simp] theorem State.saveLed_buf : (s.saveLed).buf = s.buf := rfl
@[simp] theorem State.saveLed_len : (s.saveLed).len = s.len := rfl
@[simp] theorem State.saveLed_pp : (s.saveLed).pp = s.pp := rfl
@[simp] theorem State.saveLed_flushIdx : (s.saveLed).flushIdx = s.flushIdx := rfl
@[simp] theorem State.saveLed_txK : (s.saveLed).txK = s.txK := rfl
@[simp] theorem State.saveLed_txData : (s.saveLed).txData = s.txData := rfl
@[simp] theorem State.saveLed_now : (s.saveLed).now = s.now := rfl
@[simp] theorem State.saveLed_res : (s.saveLed).res = s.res := rfl
@[simp] theorem State.saveLed_key : (s.saveLed).key = s.key := rfl
@[simp] theorem State.saveLed_par : (s.saveLed).par = s.par := rfl
@[simp] theorem State.saveLed_colQueue : (s.saveLed).colQueue = s.colQueue := rfl
@[simp] theorem State.saveLed_sampleIdx : (s.saveLed).sampleIdx = s.sampleIdx := rfl
@[simp] theorem State.saveLed_slackQueue : (s.saveLed).slackQueue = s.slackQueue := rfl
@[simp] theorem State.saveLed_slackIdx : (s.saveLed).slackIdx = s.slackIdx := rfl
@[simp] theorem State.saveLed_trace : (s.saveLed).trace = s.trace := rfl

end saveLed

section takeSample

variable (s : State)

@[simp] theorem State.takeSample_txd : (s.takeSample).txd = s.txd := rfl
@[simp] theorem State.takeSample_rowSel : (s.takeSample).rowSel = s.rowSel := rfl
@[simp] theorem State.takeSample_led : (s.takeSample).led = s.led := rfl
@[simp] theorem State.takeSample_ledSave : (s.takeSample).ledSave = s.ledSave := rfl
@[simp] theorem State.takeSample_snap : (s.takeSample).snap = s.snap := rfl
@[simp] theorem State.takeSample_buf : (s.takeSample).buf = s.buf := rfl
@[simp] theorem State.takeSample_len : (s.takeSample).len = s.len := rfl
@[simp] theorem State.takeSample_pp : (s.takeSample).pp = s.pp := rfl
@[simp] theorem State.takeSample_flushIdx : (s.takeSample).flushIdx = s.flushIdx := rfl
@[simp] theorem State.takeSample_txK : (s.takeSample).txK = s.txK := rfl
@[simp] theorem State.takeSample_txData : (s.takeSample).txData = s.txData := rfl
@[simp] theorem State.takeSample_now : (s.takeSample).now = s.now := rfl
@[simp] theorem State.takeSample_res : (s.takeSample).res = s.res := rfl
@[simp] theorem State.takeSample_key : (s.takeSample).key = s.key := rfl
@[simp] theorem State.takeSample_par : (s.takeSample).par = s.par := rfl
@[simp] theorem State.takeSample_colQueue : (s.takeSample).colQueue = s.colQueue.tail := rfl
@[simp] theorem State.takeSample_sampleIdx : (s.takeSample).sampleIdx = s.sampleIdx + 1 := rfl
@[simp] theorem State.takeSample_slackQueue : (s.takeSample).slackQueue = s.slackQueue := rfl
@[simp] theorem State.takeSample_slackIdx : (s.takeSample).slackIdx = s.slackIdx := rfl
@[simp] theorem State.takeSample_trace : (s.takeSample).trace =
    s.trace ++ [{ time := s.now, signal := .sample s.nextSample }] := rfl

end takeSample

section setPp

variable (s : State) (p : PP)

@[simp] theorem State.setPp_txd : (s.setPp p).txd = s.txd := rfl
@[simp] theorem State.setPp_rowSel : (s.setPp p).rowSel = s.rowSel := rfl
@[simp] theorem State.setPp_led : (s.setPp p).led = s.led := rfl
@[simp] theorem State.setPp_ledSave : (s.setPp p).ledSave = s.ledSave := rfl
@[simp] theorem State.setPp_snap : (s.setPp p).snap = s.snap := rfl
@[simp] theorem State.setPp_buf : (s.setPp p).buf = s.buf := rfl
@[simp] theorem State.setPp_len : (s.setPp p).len = s.len := rfl
@[simp] theorem State.setPp_pp : (s.setPp p).pp = p := rfl
@[simp] theorem State.setPp_flushIdx : (s.setPp p).flushIdx = s.flushIdx := rfl
@[simp] theorem State.setPp_txK : (s.setPp p).txK = s.txK := rfl
@[simp] theorem State.setPp_txData : (s.setPp p).txData = s.txData := rfl
@[simp] theorem State.setPp_now : (s.setPp p).now = s.now := rfl
@[simp] theorem State.setPp_res : (s.setPp p).res = s.res := rfl
@[simp] theorem State.setPp_key : (s.setPp p).key = s.key := rfl
@[simp] theorem State.setPp_par : (s.setPp p).par = s.par := rfl
@[simp] theorem State.setPp_colQueue : (s.setPp p).colQueue = s.colQueue := rfl
@[simp] theorem State.setPp_sampleIdx : (s.setPp p).sampleIdx = s.sampleIdx := rfl
@[simp] theorem State.setPp_slackQueue : (s.setPp p).slackQueue = s.slackQueue := rfl
@[simp] theorem State.setPp_slackIdx : (s.setPp p).slackIdx = s.slackIdx := rfl
@[simp] theorem State.setPp_trace : (s.setPp p).trace = s.trace := rfl

end setPp

section setLen

variable (s : State) (n : Len)

@[simp] theorem State.setLen_txd : (s.setLen n).txd = s.txd := rfl
@[simp] theorem State.setLen_rowSel : (s.setLen n).rowSel = s.rowSel := rfl
@[simp] theorem State.setLen_led : (s.setLen n).led = s.led := rfl
@[simp] theorem State.setLen_ledSave : (s.setLen n).ledSave = s.ledSave := rfl
@[simp] theorem State.setLen_snap : (s.setLen n).snap = s.snap := rfl
@[simp] theorem State.setLen_buf : (s.setLen n).buf = s.buf := rfl
@[simp] theorem State.setLen_len : (s.setLen n).len = n := rfl
@[simp] theorem State.setLen_pp : (s.setLen n).pp = s.pp := rfl
@[simp] theorem State.setLen_flushIdx : (s.setLen n).flushIdx = s.flushIdx := rfl
@[simp] theorem State.setLen_txK : (s.setLen n).txK = s.txK := rfl
@[simp] theorem State.setLen_txData : (s.setLen n).txData = s.txData := rfl
@[simp] theorem State.setLen_now : (s.setLen n).now = s.now := rfl
@[simp] theorem State.setLen_res : (s.setLen n).res = s.res := rfl
@[simp] theorem State.setLen_key : (s.setLen n).key = s.key := rfl
@[simp] theorem State.setLen_par : (s.setLen n).par = s.par := rfl
@[simp] theorem State.setLen_colQueue : (s.setLen n).colQueue = s.colQueue := rfl
@[simp] theorem State.setLen_sampleIdx : (s.setLen n).sampleIdx = s.sampleIdx := rfl
@[simp] theorem State.setLen_slackQueue : (s.setLen n).slackQueue = s.slackQueue := rfl
@[simp] theorem State.setLen_slackIdx : (s.setLen n).slackIdx = s.slackIdx := rfl
@[simp] theorem State.setLen_trace : (s.setLen n).trace = s.trace := rfl

end setLen

section txRelease

variable (s : State)

@[simp] theorem State.txRelease_txd : (s.txRelease).txd = s.txd := rfl
@[simp] theorem State.txRelease_rowSel : (s.txRelease).rowSel = s.rowSel := rfl
@[simp] theorem State.txRelease_led : (s.txRelease).led = s.led := rfl
@[simp] theorem State.txRelease_ledSave : (s.txRelease).ledSave = s.ledSave := rfl
@[simp] theorem State.txRelease_snap : (s.txRelease).snap = s.snap := rfl
@[simp] theorem State.txRelease_buf : (s.txRelease).buf = s.buf := rfl
@[simp] theorem State.txRelease_len : (s.txRelease).len = s.len := rfl
@[simp] theorem State.txRelease_pp : (s.txRelease).pp = s.pp := rfl
@[simp] theorem State.txRelease_flushIdx : (s.txRelease).flushIdx = s.flushIdx := rfl
@[simp] theorem State.txRelease_txK : (s.txRelease).txK = Config.deadTxK s.slackIdx := rfl
@[simp] theorem State.txRelease_txData : (s.txRelease).txData = Config.deadTxData s.slackIdx := rfl
@[simp] theorem State.txRelease_now : (s.txRelease).now = s.now := rfl
@[simp] theorem State.txRelease_res : (s.txRelease).res = s.res := rfl
@[simp] theorem State.txRelease_key : (s.txRelease).key = s.key := rfl
@[simp] theorem State.txRelease_par : (s.txRelease).par = s.par := rfl
@[simp] theorem State.txRelease_colQueue : (s.txRelease).colQueue = s.colQueue := rfl
@[simp] theorem State.txRelease_sampleIdx : (s.txRelease).sampleIdx = s.sampleIdx := rfl
@[simp] theorem State.txRelease_slackQueue : (s.txRelease).slackQueue = s.slackQueue := rfl
@[simp] theorem State.txRelease_slackIdx : (s.txRelease).slackIdx = s.slackIdx := rfl
@[simp] theorem State.txRelease_trace : (s.txRelease).trace = s.trace := rfl

end txRelease

/-- The draws still to come after one slack. -/
@[simp] theorem State.slack_slackAt (s : State) (j : Nat) : s.slack.slackAt j = s.slackAt (j + 1) := by
  have hidx : s.slackIdx + 1 + j = s.slackIdx + (j + 1) := by omega
  unfold State.slackAt State.slack
  cases h : s.slackQueue <;> simp [hidx]

/-- Slack draws depend on the queue and the index alone. -/
theorem State.slackAt_congr {s t : State} (hq : s.slackQueue = t.slackQueue) (hi : s.slackIdx = t.slackIdx) (j : Nat) :
    s.slackAt j = t.slackAt j := by
  simp [State.slackAt, hq, hi]

/-- The next sample depends on the queue and the index alone. -/
theorem State.nextSample_congr {s t : State} (hq : s.colQueue = t.colQueue) (hi : s.sampleIdx = t.sampleIdx) :
    s.nextSample = t.nextSample := by
  simp [State.nextSample, hq, hi]

@[simp] theorem State.hold_slackAt (s : State) (d : Nat) (j : Nat) : (s.hold d).slackAt j = s.slackAt j := rfl
@[simp] theorem State.hold_nextSample (s : State) (d : Nat) : (s.hold d).nextSample = s.nextSample := rfl
@[simp] theorem State.slack_nextSample (s : State) : (s.slack).nextSample = s.nextSample := rfl
@[simp] theorem State.emit_slackAt (s : State) (x : Signal) (j : Nat) : (s.emit x).slackAt j = s.slackAt j := rfl
@[simp] theorem State.emit_nextSample (s : State) (x : Signal) : (s.emit x).nextSample = s.nextSample := rfl
@[simp] theorem State.writeTxd_slackAt (s : State) (v : Bool) (j : Nat) : (s.writeTxd v).slackAt j = s.slackAt j := rfl
@[simp] theorem State.writeTxd_nextSample (s : State) (v : Bool) : (s.writeTxd v).nextSample = s.nextSample := rfl
@[simp] theorem State.writeRowSel_slackAt (s : State) (v : Rows) (j : Nat) : (s.writeRowSel v).slackAt j =
    s.slackAt j := rfl
@[simp] theorem State.writeRowSel_nextSample (s : State) (v : Rows) : (s.writeRowSel v).nextSample = s.nextSample := rfl
@[simp] theorem State.writeLed_slackAt (s : State) (v : Cols) (j : Nat) : (s.writeLed v).slackAt j = s.slackAt j := rfl
@[simp] theorem State.writeLed_nextSample (s : State) (v : Cols) : (s.writeLed v).nextSample = s.nextSample := rfl
@[simp] theorem State.saveLed_slackAt (s : State) (j : Nat) : (s.saveLed).slackAt j = s.slackAt j := rfl
@[simp] theorem State.saveLed_nextSample (s : State) : (s.saveLed).nextSample = s.nextSample := rfl
@[simp] theorem State.takeSample_slackAt (s : State) (j : Nat) : (s.takeSample).slackAt j = s.slackAt j := rfl
@[simp] theorem State.setPp_slackAt (s : State) (p : PP) (j : Nat) : (s.setPp p).slackAt j = s.slackAt j := rfl
@[simp] theorem State.setPp_nextSample (s : State) (p : PP) : (s.setPp p).nextSample = s.nextSample := rfl
@[simp] theorem State.setLen_slackAt (s : State) (n : Len) (j : Nat) : (s.setLen n).slackAt j = s.slackAt j := rfl
@[simp] theorem State.setLen_nextSample (s : State) (n : Len) : (s.setLen n).nextSample = s.nextSample := rfl
@[simp] theorem State.txRelease_slackAt (s : State) (j : Nat) : (s.txRelease).slackAt j = s.slackAt j := rfl
@[simp] theorem State.txRelease_nextSample (s : State) : (s.txRelease).nextSample = s.nextSample := rfl

end Sys2Proof.Machine
end

