-- ==== Sys2Proof/Laws/Ops.lean ====
section
/-! SUPPORT. What the shared operations do: sequencing, the LEN guard, the frame, and the byte-level view of a
frame's writes. -/

namespace Sys2Proof.Machine

/-! ### Sequencing and the guard -/

@[simp] theorem andThen_next (s : State) (f : State → Out) : andThen (.next s) f = f s := rfl

@[simp] theorem andThen_fault (e : Fault) (f : State → Out) : andThen (.fault e) f = .fault e := rfl

@[simp] theorem andThen_refused (e : Refusal) (f : State → Out) : andThen (.refused e) f = .refused e := rfl

/-- A sequence completes exactly where both parts do. -/
theorem andThen_eq_next {o : Out} {f : State → Out} {t : State} :
    andThen o f = .next t ↔ ∃ s, o = .next s ∧ f s = .next t := by
  cases o <;> simp

/-- In a state whose registers hold legal values the guard lets everything through. -/
theorem guardState_of_legal {s : State} (h : Legal s) (f : State → Out) : guardState s f = f s := by
  rw [guardState, if_neg (Nat.not_lt.mpr h.1), if_pos h.2]

theorem guardState_of_lt {s : State} (h : Config.bufN < s.len.toNat) (f : State → Out) :
    guardState s f = .fault .lenRange := if_pos h

theorem guardState_of_reserved {s : State} (hl : s.len.toNat ≤ Config.bufN) (hr : legalRes s.res = false)
    (f : State → Out) : guardState s f = .fault .resultRange := by
  rw [guardState, if_neg (Nat.not_lt.mpr hl), if_neg (by simp [hr])]

/-- What passes the guard completes only where the registers hold legal values. -/
theorem guardState_eq_next {s t : State} {f : State → Out} :
    guardState s f = .next t ↔ Legal s ∧ f s = .next t := by
  unfold guardState Legal
  split <;> [skip; split] <;> simp_all

/-! ### The frame -/

/-- The level of phase k is bit k of the frame word (R72, R102). -/
theorem phaseLevel_eq_frameWord (d : Byte) (k : Nat) (h : k < Config.phases) :
    phaseLevel d (BitVec.ofNat _ k) = (frameWord d).getLsbD k := by
  have hz : BitVec.ofNat Config.phaseBits k = 0#_ ↔ k = 0 := by
    rw [← BitVec.toNat_inj, Config.toNat_phaseNum h]
    simp
  have h' : k < Config.dataBits + 2 := h
  simp only [phaseLevel, frameWord, hz, Config.toNat_phaseNum h, BitVec.getLsbD_or, BitVec.getLsbD_shiftLeft,
    BitVec.getLsbD_setWidth, BitVec.getLsbD_one, h, decide_true, Bool.true_and]
  rcases Nat.lt_trichotomy k (Config.dataBits + 1) with hk | rfl | hk
  · have e : (k - (Config.dataBits + 1) = 0) := by omega
    by_cases h0 : k = 0
    · simp [h0]
    · have h1 : k ≤ Config.dataBits := by omega
      have h2 : k - 1 < Config.phases := by omega
      have h3 : ¬ k < 1 := by omega
      simp [h0, h1, h2, h3, hk]
  · simp
  · omega

@[simp] theorem frameEvents_length (t0 ui : Nat) (d : Byte) : (frameEvents t0 ui d).length = Config.phases := by
  simp [frameEvents]

/-- The phases from `n` phases before, as one update. -/
theorem foldl_txPhase (n : Nat) (hn : n ≤ Config.phases) (s : State) :
    (List.range n).foldl State.txPhase s =
      { s with
        txd := if n = 0 then s.txd else phaseLevel s.txData (BitVec.ofNat _ (n - 1))
        txK := if n = 0 then s.txK else BitVec.ofNat _ (n - 1)
        now := s.now + n * s.par.uiTicks
        trace := s.trace ++ (List.range n).map fun k =>
          { time := s.now + k * s.par.uiTicks, signal := .txd (phaseLevel s.txData (BitVec.ofNat _ k)) } } := by
  induction n with
  | zero => simp
  | succ n ih =>
    rw [List.range_succ, List.foldl_append, ih (by omega)]
    simp [State.txPhase, State.writeTxd, State.emit, State.hold, Nat.add_mul, Nat.add_assoc]

/-- Everything TX.FRAME does (R100 to R102). -/
theorem txFrame_eq (s : State) (d : Byte) :
    s.txFrame d =
      { s with
        txd := true
        txK := Config.deadTxK (s.slackIdx + 1)
        txData := Config.deadTxData (s.slackIdx + 1)
        now := s.now + s.slackAt 0 + Config.phases * s.par.uiTicks
        slackQueue := s.slackQueue.tail
        slackIdx := s.slackIdx + 1
        trace := s.trace ++ frameEvents (s.now + s.slackAt 0) s.par.uiTicks d } := by
  unfold State.txFrame
  rw [foldl_txPhase Config.phases (Nat.le_refl _)]
  have h : ∀ k ∈ List.range Config.phases,
      ({ time := s.now + s.slackAt 0 + k * s.par.uiTicks, signal := .txd (phaseLevel d (BitVec.ofNat _ k)) } : Event) =
      { time := s.now + s.slackAt 0 + k * s.par.uiTicks, signal := .txd ((frameWord d).getLsbD k) } := by
    intro k hk
    rw [phaseLevel_eq_frameWord d k (by simpa using hk)]
  have hstop : phaseLevel d (BitVec.ofNat _ (Config.phases - 1)) = true := by
    rw [phaseLevel_eq_frameWord d _ (by decide)]
    simp [frameWord]
  simp only [State.txRelease, State.slack, frameEvents, List.map_congr_left h]
  simp only [if_neg (show Config.phases ≠ 0 by decide), hstop]

/-! ### The byte-level view -/

@[simp] theorem txdLevels_append (a b : List Event) : txdLevels (a ++ b) = txdLevels a ++ txdLevels b := by
  simp [txdLevels]

@[simp] theorem txdEvents_append (a b : List Event) : txdEvents (a ++ b) = txdEvents a ++ txdEvents b := by
  simp [txdEvents]

@[simp] theorem txdEvents_frameEvents (t0 ui : Nat) (d : Byte) :
    txdEvents (frameEvents t0 ui d) = frameEvents t0 ui d := by
  simp [txdEvents, frameEvents]

@[simp] theorem lineEvents_nil (ui : Nat) : lineEvents ui [] = [] := rfl

@[simp] theorem lineEvents_cons (ui : Nat) (f : Nat × Byte) (fs : List (Nat × Byte)) :
    lineEvents ui (f :: fs) = frameEvents f.1 ui f.2 ++ lineEvents ui fs := rfl

@[simp] theorem lineEvents_append (ui : Nat) (a b : List (Nat × Byte)) :
    lineEvents ui (a ++ b) = lineEvents ui a ++ lineEvents ui b := by
  simp [lineEvents]

/-- Frames write nothing but TXD. -/
@[simp] theorem txdEvents_lineEvents (ui : Nat) (frames : List (Nat × Byte)) :
    txdEvents (lineEvents ui frames) = lineEvents ui frames := by
  induction frames with
  | nil => rfl
  | cons f fs ih => simp [ih]

theorem txdLevels_frameEvents (t0 ui : Nat) (d : Byte) :
    txdLevels (frameEvents t0 ui d) = (List.range Config.phases).map (frameWord d).getLsbD := by
  simp [txdLevels, frameEvents, List.filterMap_map]

@[simp] theorem frameLevels_nil : frameLevels [] = [] := rfl

@[simp] theorem frameLevels_append (a b : List Byte) : frameLevels (a ++ b) = frameLevels a ++ frameLevels b := by
  simp [frameLevels]

/-- The levels of frames on the line are the levels of their bytes. -/
theorem txdLevels_lineEvents (ui : Nat) (frames : List (Nat × Byte)) :
    txdLevels (lineEvents ui frames) = frameLevels (frames.map Prod.snd) := by
  induction frames with
  | nil => rfl
  | cons f fs ih =>
    rw [lineEvents_cons, txdLevels_append, ih, txdLevels_frameEvents]
    rfl

/-- A byte depends on its bits alone. -/
theorem byteOfBits_congr {f g : Nat → Bool} (h : ∀ i < Config.dataBits, f i = g i) : byteOfBits f = byteOfBits g := by
  unfold byteOfBits
  congr 1
  exact funext fun i => h i i.isLt

/-- Data bit i of a frame word is bit i of its byte (R70, R72). -/
theorem frameWord_data (d : Byte) {i : Nat} (h : i < Config.dataBits) :
    (frameWord d).getLsbD (i + 1) = d.getLsbD i := by
  have h1 : i + 1 < Config.phases := by
    change i + 1 < Config.dataBits + 2
    omega
  simp [frameWord, h, h1]

/-- The data bits of a frame word, read back. -/
theorem byteOfBits_frameWord (d : Byte) : byteOfBits (fun i => (frameWord d).getLsbD (i + 1)) = d := by
  rw [byteOfBits_congr fun i hi => frameWord_data d hi]
  exact BitVec.eq_of_getLsbD_eq fun i hi => by simp [byteOfBits, hi]

/-- The levels of a frame, and then anything: its byte, and then the bytes of the rest (R70). -/
theorem framesOf_cons (d : Byte) (rest : List Bool) :
    framesOf ((List.range Config.phases).map (frameWord d).getLsbD ++ rest) = d :: framesOf rest := by
  have hlen : ((List.range Config.phases).map (frameWord d).getLsbD).length = Config.phases := by simp
  rw [framesOf, framesOf, List.length_append, hlen, Nat.add_div_left _ (by decide),
    List.range_succ_eq_map (n := rest.length / Config.phases), List.map_cons, List.map_map]
  refine congrArg₂ List.cons ?_ ?_
  · refine Eq.trans (byteOfBits_congr fun i hi => ?_) (byteOfBits_frameWord d)
    have h1 : Config.phases * 0 + (i + 1) < Config.phases := by
      change _ < Config.dataBits + 2
      omega
    rw [List.getD_append _ _ _ _ (by rw [hlen]; exact h1), List.getD_eq_getElem _ _ (by rw [hlen]; exact h1)]
    simp
  · refine List.map_congr_left fun n _ => ?_
    rw [Function.comp_apply]
    refine byteOfBits_congr fun i _ => ?_
    have h2 : Config.phases * (n + 1) + (i + 1) = Config.phases + (Config.phases * n + (i + 1)) := by
      rw [Nat.mul_succ]
      omega
    rw [Nat.succ_eq_add_one, h2, List.getD_append_right _ _ _ _ (by rw [hlen]; exact Nat.le_add_right _ _), hlen,
      Nat.add_sub_cancel_left]

/-- The bytes of whole frames are the bytes they were made of (R104). -/
@[simp] theorem framesOf_frameLevels (bytes : List Byte) : framesOf (frameLevels bytes) = bytes := by
  induction bytes with
  | nil => rfl
  | cons d rest ih => rw [frameLevels, List.flatMap_cons, ← frameLevels, framesOf_cons, ih]

@[simp] theorem sentBytes_nil : sentBytes [] = [] := rfl

/-- The bytes of frames on the line (R104). -/
@[simp] theorem sentBytes_lineEvents (ui : Nat) (frames : List (Nat × Byte)) :
    sentBytes (lineEvents ui frames) = frames.map Prod.snd := by
  rw [sentBytes, txdLevels_lineEvents, framesOf_frameLevels]

/-- A frame's writes are writes of TXD, in order, inside its ten unit intervals. -/
theorem frameEvents_txd {t0 ui : Nat} {d : Byte} {e : Event} (h : e ∈ frameEvents t0 ui d) :
    (∃ v, e.signal = .txd v) ∧ t0 ≤ e.time ∧ e.time ≤ t0 + Config.phases * ui := by
  simp only [frameEvents, List.mem_map, List.mem_range] at h
  obtain ⟨k, hk, rfl⟩ := h
  exact ⟨⟨_, rfl⟩, Nat.le_add_right _ _, Nat.add_le_add_left (Nat.mul_le_mul_right _ (by omega)) _⟩

theorem frameEvents_pairwise (t0 ui : Nat) (d : Byte) : (frameEvents t0 ui d).Pairwise fun a b => a.time ≤ b.time := by
  rw [frameEvents, List.pairwise_map]
  exact List.pairwise_lt_range.imp fun h => Nat.add_le_add_left (Nat.mul_le_mul_right _ (Nat.le_of_lt h)) _

end Sys2Proof.Machine
end

