-- ==== Sys2Proof/Laws/Transmit.lean ====
section
/-! SUPPORT. What a transmission does: one lemma for one frame, one for the frames of a buffer, and one for FLUSH.
All three have the shape `Sends`: the bytes that go out, the time they take, and what they leave alone. -/

namespace Sys2Proof.Machine

/-- From s to t the block sends `bytes`, each as one frame, and does nothing else: the time is ten unit intervals a byte
and the slacks, only TXD is written, and every register that does not belong to the transmission or to the buffer keeps
its value. -/
structure Sends (bytes : List Byte) (s t : State) : Prop where
  trace : ∃ frames, t.trace = s.trace ++ lineEvents s.par.uiTicks frames ∧ frames.map Prod.snd = bytes ∧
    spaced s.now t.now s.par.uiTicks frames
  now : t.now = s.now + Config.phases * bytes.length * s.par.uiTicks + slackSum s bytes.length
  slackAt : ∀ j, t.slackAt j = s.slackAt (j + bytes.length)
  slackIdx : t.slackIdx = s.slackIdx + bytes.length
  txd : s.txd = true → t.txd = true
  rowSel : t.rowSel = s.rowSel
  led : t.led = s.led
  ledSave : t.ledSave = s.ledSave
  snap : t.snap = s.snap
  pp : t.pp = s.pp
  res : t.res = s.res
  key : t.key = s.key
  par : t.par = s.par
  colQueue : t.colQueue = s.colQueue
  sampleIdx : t.sampleIdx = s.sampleIdx

theorem slackSum_zero (s : State) : slackSum s 0 = 0 := rfl

theorem slackSum_one (s : State) : slackSum s 1 = s.slackAt 0 := by simp [slackSum]

/-- The draws of two operations in a row. -/
theorem slackSum_add (s : State) (m n : Nat) :
    slackSum s (m + n) = slackSum s m + ((List.range n).map fun j => s.slackAt (j + m)).sum := by
  rw [slackSum, slackSum, List.range_add, List.map_append, List.sum_append, List.map_map]
  simp [Function.comp_def, Nat.add_comm]

theorem Sends.slackSum_eq {bytes : List Byte} {s t : State} (h : Sends bytes s t) (n : Nat) :
    slackSum s (bytes.length + n) = slackSum s bytes.length + slackSum t n := by
  rw [slackSum_add, slackSum, slackSum, List.map_congr_left fun j _ => h.slackAt j]

/-- Ordered extensions follow each other. -/
theorem inOrder_append {lo mid hi : Nat} {a b : List Event} (hlm : lo ≤ mid) (hmh : mid ≤ hi) (ha : inOrder lo mid a)
    (hb : inOrder mid hi b) : inOrder lo hi (a ++ b) := by
  refine ⟨fun e he => ?_, ?_⟩
  · rcases List.mem_append.mp he with h | h
    · exact ⟨(ha.1 e h).1, Nat.le_trans (ha.1 e h).2 hmh⟩
    · exact ⟨Nat.le_trans hlm (hb.1 e h).1, (hb.1 e h).2⟩
  · exact List.pairwise_append.mpr ⟨ha.2, hb.2, fun x hx y hy => Nat.le_trans (ha.1 x hx).2 (hb.1 y hy).1⟩

theorem inOrder_nil (lo hi : Nat) : inOrder lo hi [] := ⟨by simp, .nil⟩

theorem spaced_nil (lo hi ui : Nat) : spaced lo hi ui [] := ⟨by simp, .nil⟩

/-- Frames that fit an interval fit a wider one. -/
theorem spaced_mono {lo lo' hi hi' ui : Nat} {fs : List (Nat × Byte)} (hl : lo' ≤ lo) (hh : hi ≤ hi')
    (h : spaced lo hi ui fs) : spaced lo' hi' ui fs :=
  ⟨fun f hf => ⟨Nat.le_trans hl (h.1 f hf).1, Nat.le_trans (h.1 f hf).2 hh⟩, h.2⟩

/-- Spaced frames follow each other. -/
theorem spaced_append {lo mid hi ui : Nat} {as bs : List (Nat × Byte)} (hlm : lo ≤ mid) (hmh : mid ≤ hi)
    (ha : spaced lo mid ui as) (hb : spaced mid hi ui bs) : spaced lo hi ui (as ++ bs) := by
  refine ⟨fun f hf => ?_, ?_⟩
  · rcases List.mem_append.mp hf with h | h
    · exact (spaced_mono (Nat.le_refl lo) hmh ha).1 f h
    · exact (spaced_mono hlm (Nat.le_refl hi) hb).1 f h
  · exact List.pairwise_append.mpr ⟨ha.2, hb.2, fun x hx y hy => Nat.le_trans (ha.1 x hx).2 (hb.1 y hy).1⟩

/-- The writes of spaced frames are writes of TXD, in order. -/
theorem spaced_events {lo hi ui : Nat} {fs : List (Nat × Byte)} (h : spaced lo hi ui fs) :
    (∀ e ∈ lineEvents ui fs, ∃ v, e.signal = .txd v) ∧ inOrder lo hi (lineEvents ui fs) := by
  have hmem : ∀ e ∈ lineEvents ui fs, ∃ f ∈ fs, e ∈ frameEvents f.1 ui f.2 := fun e he => List.mem_flatMap.mp he
  refine ⟨fun e he => ?_, fun e he => ?_, ?_⟩
  · obtain ⟨f, -, hf⟩ := hmem e he
    exact (frameEvents_txd hf).1
  · obtain ⟨f, hfs, hf⟩ := hmem e he
    exact ⟨Nat.le_trans (h.1 f hfs).1 (frameEvents_txd hf).2.1, Nat.le_trans (frameEvents_txd hf).2.2 (h.1 f hfs).2⟩
  · refine List.pairwise_flatMap.mpr ⟨fun f _ => frameEvents_pairwise _ _ _, h.2.imp fun hab x hx y hy => ?_⟩
    exact Nat.le_trans (frameEvents_txd hx).2.2 (Nat.le_trans hab (frameEvents_txd hy).2.1)

/-- What goes on the line in a transmission, without the instants of the frames. -/
theorem Sends.events {bytes : List Byte} {s t : State} (h : Sends bytes s t) :
    ∃ ext, t.trace = s.trace ++ ext ∧ sentBytes ext = bytes ∧ txdLevels ext = frameLevels bytes ∧
      (∀ e ∈ ext, ∃ v, e.signal = .txd v) ∧ inOrder s.now t.now ext := by
  obtain ⟨fs, ht, hb, hs⟩ := h.trace
  exact ⟨_, ht, by rw [sentBytes_lineEvents, hb], by rw [txdLevels_lineEvents, hb], spaced_events hs⟩

theorem Sends.nil (s : State) : Sends [] s s where
  trace := ⟨[], by simp, rfl, spaced_nil _ _ _⟩
  now := by simp [slackSum_zero]
  slackAt := by simp
  slackIdx := rfl
  txd := id
  rowSel := rfl
  led := rfl
  ledSave := rfl
  snap := rfl
  pp := rfl
  res := rfl
  key := rfl
  par := rfl
  colQueue := rfl
  sampleIdx := rfl

/-- Transmissions follow each other. -/
theorem Sends.append {as bs : List Byte} {s t u : State} (h : Sends as s t) (k : Sends bs t u) :
    Sends (as ++ bs) s u where
  trace := by
    obtain ⟨x, hx, hxb, hxs⟩ := h.trace
    obtain ⟨y, hy, hyb, hys⟩ := k.trace
    rw [h.par] at hy hys
    refine ⟨x ++ y, by rw [hy, hx, lineEvents_append, List.append_assoc], by rw [List.map_append, hxb, hyb], ?_⟩
    exact spaced_append (by have := h.now; omega) (by have := k.now; omega) hxs hys
  now := by
    rw [k.now, h.now, h.par, List.length_append, h.slackSum_eq]
    ring
  slackAt := by
    intro j
    rw [k.slackAt, h.slackAt, List.length_append]
    congr 1
    omega
  slackIdx := by rw [k.slackIdx, h.slackIdx, List.length_append, Nat.add_assoc]
  txd := fun e => k.txd (h.txd e)
  rowSel := k.rowSel.trans h.rowSel
  led := k.led.trans h.led
  ledSave := k.ledSave.trans h.ledSave
  snap := k.snap.trans h.snap
  pp := k.pp.trans h.pp
  res := k.res.trans h.res
  key := k.key.trans h.key
  par := k.par.trans h.par
  colQueue := k.colQueue.trans h.colQueue
  sampleIdx := k.sampleIdx.trans h.sampleIdx

/-- A frame sends its byte (R100). -/
theorem txFrame_sends (s : State) (d : Byte) : Sends [d] s (s.txFrame d) where
  trace := by
    refine ⟨[(s.now + s.slackAt 0, d)], by simp [txFrame_eq], rfl, by simp [txFrame_eq], by simp⟩
  now := by rw [txFrame_eq]; simp [slackSum_one]; omega
  slackAt := by
    intro j
    rw [txFrame_eq, List.length_singleton, ← State.slack_slackAt]
    rfl
  slackIdx := by rw [txFrame_eq]; rfl
  txd := by intro _; rw [txFrame_eq]
  rowSel := by rw [txFrame_eq]
  led := by rw [txFrame_eq]
  ledSave := by rw [txFrame_eq]
  snap := by rw [txFrame_eq]
  pp := by rw [txFrame_eq]
  res := by rw [txFrame_eq]
  key := by rw [txFrame_eq]
  par := by rw [txFrame_eq]
  colQueue := by rw [txFrame_eq]
  sampleIdx := by rw [txFrame_eq]

@[simp] theorem txFrame_txd (s : State) (d : Byte) : (s.txFrame d).txd = true := by rw [txFrame_eq]

@[simp] theorem txFrame_len (s : State) (d : Byte) : (s.txFrame d).len = s.len := by rw [txFrame_eq]

@[simp] theorem txFrame_flushIdx (s : State) (d : Byte) : (s.txFrame d).flushIdx = s.flushIdx := by rw [txFrame_eq]

@[simp] theorem txFrame_buf (s : State) (d : Byte) : (s.txFrame d).buf = s.buf := by rw [txFrame_eq]

/-- LEN may change after a transmission. -/
theorem Sends.toLen {bytes : List Byte} {s t : State} (h : Sends bytes s t) (n : Len) :
    Sends bytes s { t with len := n } where
  trace := h.trace
  now := h.now
  slackAt := h.slackAt
  slackIdx := h.slackIdx
  txd := h.txd
  rowSel := h.rowSel
  led := h.led
  ledSave := h.ledSave
  snap := h.snap
  pp := h.pp
  res := h.res
  key := h.key
  par := h.par
  colQueue := h.colQueue
  sampleIdx := h.sampleIdx

/-- The flush's byte index may change after a transmission. -/
theorem Sends.toFlushIdx {bytes : List Byte} {s t : State} (h : Sends bytes s t) (n : Len) :
    Sends bytes s { t with flushIdx := n } where
  trace := h.trace
  now := h.now
  slackAt := h.slackAt
  slackIdx := h.slackIdx
  txd := h.txd
  rowSel := h.rowSel
  led := h.led
  ledSave := h.ledSave
  snap := h.snap
  pp := h.pp
  res := h.res
  key := h.key
  par := h.par
  colQueue := h.colQueue
  sampleIdx := h.sampleIdx


/-- The flush's byte index may be set before a transmission. -/
theorem Sends.ofFlushIdx {bytes : List Byte} {s t : State} {i : Len}
    (h : Sends bytes { s with flushIdx := i } t) : Sends bytes s t where
  trace := h.trace
  now := h.now
  slackAt := h.slackAt
  slackIdx := h.slackIdx
  txd := h.txd
  rowSel := h.rowSel
  led := h.led
  ledSave := h.ledSave
  snap := h.snap
  pp := h.pp
  res := h.res
  key := h.key
  par := h.par
  colQueue := h.colQueue
  sampleIdx := h.sampleIdx

theorem bufRead_eq (s : State) (i : Nat) (h : i < Config.bufN) : s.bufRead i = some s.buf[i] := by
  simp [State.bufRead, h]

/-- The frames of n entries of BUF from the byte index on (R150). -/
theorem flushFrom_sends (n : Nat) (s : State) (h : s.flushIdx.toNat + n ≤ Config.bufN) :
    ∃ t, flushFrom n s = .next t ∧ Sends ((s.buf.toList.drop s.flushIdx.toNat).take n) s t ∧ t.len = s.len ∧
      t.buf = s.buf := by
  induction n generalizing s with
  | zero => exact ⟨s, rfl, by simpa using Sends.nil s, rfl, rfl⟩
  | succ n ih =>
    have hi : s.flushIdx.toNat < Config.bufN := by omega
    have hnext : (s.flushIdx + 1#_).toNat = s.flushIdx.toNat + 1 := Config.toNat_len_succ hi
    obtain ⟨t, ht, hs, hl, hu⟩ := ih { s.txFrame s.buf[s.flushIdx.toNat] with flushIdx := s.flushIdx + 1#_ } (by
      simp [hnext]
      omega)
    refine ⟨t, ?_, ?_, ?_, ?_⟩
    · rw [flushFrom, bufRead_eq s _ hi]
      exact ht
    · have hb : (s.txFrame s.buf[s.flushIdx.toNat]).buf = s.buf := txFrame_buf s _
      have hdrop : s.buf.toList.drop s.flushIdx.toNat =
          s.buf[s.flushIdx.toNat] :: s.buf.toList.drop (s.flushIdx.toNat + 1) := by
        rw [List.drop_eq_getElem_cons (by simpa using hi)]
        simp
      rw [hdrop, List.take_succ_cons, ← List.singleton_append]
      refine ((txFrame_sends s s.buf[s.flushIdx.toNat]).toFlushIdx (s.flushIdx + 1#_)).append ?_
      simpa only [hnext, hb] using hs
    · rw [hl]
      dsimp only
      rw [txFrame_len]
    · rw [hu]
      dsimp only
      rw [txFrame_buf]

/-- FLUSH of a buffer that holds something (R150). -/
theorem flush_sends (s : State) (h0 : 0 < s.len.toNat) (h8 : s.len.toNat ≤ Config.bufN) :
    ∃ t, flush s = .next t ∧ Sends (contents s ++ [endMarker]) s t ∧ t.len = 0#_ ∧ t.txd = true ∧
      t.buf = s.buf := by
  have hne : s.len ≠ 0#_ := fun e => by simp [e] at h0
  obtain ⟨t, ht, hs, -, hu⟩ := flushFrom_sends s.len.toNat { s with flushIdx := 0#_ } (by simpa using h8)
  refine ⟨(t.txFrame endMarker).setLen 0#_, ?_, ?_, rfl, ?_, ?_⟩
  · rw [flush, if_neg hne, ht, andThen_next]
  · have h1 : Sends (contents s) s t := by simpa [contents] using hs.ofFlushIdx
    exact h1.append ((txFrame_sends t endMarker).toLen 0#_)
  · rw [State.setLen_txd, txFrame_txd]
  · rw [State.setLen_buf, txFrame_buf, hu]

/-- FLUSH of an empty buffer (R151). -/
theorem flush_empty {s : State} (h : s.len = 0#_) : flush s = .next s := if_pos h

end Sys2Proof.Machine
end

