-- ==== Sys2Proof/Laws/Rows.lean ====
section
/-! SUPPORT. What the operations inside a row do: the scan, the append, the forced flush, and the two halves of the
dispatch as transmissions. -/

namespace Sys2Proof.Machine

/-- A row position's operand is its row. -/
@[simp] theorem rowNum_toNat (r : Fin Config.nRows) : (rowNum r).toNat = r.val := Config.toNat_rowNum r.isLt

/-- Everything SCAN.ROW does on a legal row (R120 to R128). -/
theorem scanRow_eq (r : Fin Config.nRows) (s : State) :
    scanRow (rowNum r) s = .next
      { s with
        rowSel := rowOne s.par (rowNum r)
        snap := s.snap.set r.val s.nextSample r.isLt
        res := prio (edges s.par s.nextSample s.snap[r])
        now := s.now + s.par.rowSettleTicks + s.slackAt 0
        colQueue := s.colQueue.tail
        sampleIdx := s.sampleIdx + 1
        slackQueue := s.slackQueue.tail
        slackIdx := s.slackIdx + 1
        trace := s.trace ++
          [{ time := s.now, signal := .rowSel (rowOne s.par (rowNum r)) },
           { time := s.now + s.par.rowSettleTicks + s.slackAt 0, signal := .sample s.nextSample }] } := by
  have h : (rowNum r).toNat < Config.nRows := by simp
  have hs : ((s.writeRowSel (rowOne s.par (rowNum r))).hold s.par.rowSettleTicks).slackAt 0 = s.slackAt 0 := rfl
  rw [scanRow, dif_pos h]
  simp only [rowNum_toNat, scanSample, scanSettle, State.takeSample, State.slack, hs]
  simp [State.emit, State.writeRowSel, State.hold, State.nextSample]

/-- A row operand above 4, the last row, is the ROW_RANGE fault (R121). -/
theorem scanRow_reserved {r : RowNum} (h : Config.nRows ≤ r.toNat) (s : State) : scanRow r s = .fault .rowRange :=
  dif_neg (Nat.not_lt.mpr h)

/-- A key of the grid is found (R51, R74). -/
theorem keymapRead_eq (r : Fin Config.nRows) (c : ColNum) :
    keymapRead (keyIndex (rowNum r) c) = keymap[Config.nCols * r.val + c.toNat]? := by
  rw [keyIndex, rowNum_toNat, keymapRead]

/-- Every position of the grid has a key. -/
theorem keymapRead_isSome (r : Fin Config.nRows) (c : ColNum) : ∃ k, keymapRead (keyIndex (rowNum r) c) = some k := by
  have hr : r.val ≤ 4 := Nat.le_of_lt_succ r.isLt
  have hc : c.toNat < 4 := c.isLt
  have h : Config.nCols * r.val + c.toNat < Config.nRows * Config.nCols := by
    change 4 * r.val + c.toNat < 20
    omega
  exact ⟨_, by rw [keymapRead_eq]; exact Vector.getElem?_eq_getElem h⟩

theorem keyLookup_eq {r : RowNum} {c : ColNum} {k : Byte} (h : keymapRead (keyIndex r c) = some k) (s : State) :
    keyLookup r c s = .next { s with key := k } := by
  rw [keyLookup, h]

/-- The append (R147). -/
theorem keyData_room (key : Byte) {s : State} (h : s.len.toNat < Config.bufN) :
    keyData key s = .next { s with buf := s.buf.set s.len.toNat key h, len := s.len + 1#_ } := by
  rw [keyData, if_pos h, State.bufWrite, dif_pos h]
  rfl

/-- The drop (R148). -/
theorem keyData_full (key : Byte) {s : State} (h : s.len.toNat = Config.bufN) : keyData key s = .next s :=
  if_neg (by simp [h])

theorem contents_length {s : State} (h : s.len.toNat ≤ Config.bufN) : (contents s).length = s.len.toNat := by
  simp [contents, h]

/-- The contents depend on BUF and LEN alone. -/
theorem contents_congr {s t : State} (hb : t.buf = s.buf) (hl : t.len = s.len) : contents t = contents s := by
  rw [contents, contents, hb, hl]

theorem contents_empty {s : State} (h : s.len = 0#_) : contents s = [] := by simp [contents, h]

/-- The contents after an append (R147). -/
theorem contents_append (key : Byte) {s : State} (h : s.len.toNat < Config.bufN) :
    contents { s with buf := s.buf.set s.len.toNat key h, len := s.len + 1#_ } = contents s ++ [key] := by
  simp only [contents, Config.toNat_len_succ h, Vector.toList_set]
  rw [List.take_succ_eq_append_getElem (by simpa using h)]
  simp [List.take_set_of_le]

/-- FORCE.FLUSH of a full buffer is FLUSH (R152). -/
theorem forceFlush_full {s : State} (h : s.len.toNat = Config.bufN) : forceFlush s = flush s := if_pos h

/-- FORCE.FLUSH of any other buffer does nothing (R152). -/
theorem forceFlush_room {s : State} (h : s.len.toNat ≠ Config.bufN) : forceFlush s = .next s := if_neg h

/-- What a flush does to the buffer seen as a list. -/
def flushOutcome (held : List Byte) : List Byte × List Byte := (if held = [] then [] else held ++ [endMarker], [])

/-- FLUSH in every state with a legal LEN (R150, R151). -/
theorem flush_spec (s : State) (h : s.len.toNat ≤ Config.bufN) :
    ∃ t bytes, flush s = .next t ∧ Sends bytes s t ∧ (bytes, contents t) = flushOutcome (contents s) ∧
      t.buf = s.buf ∧ t.len = 0#_ := by
  by_cases h0 : s.len = 0#_
  · exact ⟨s, [], flush_empty h0, Sends.nil s, by simp [flushOutcome, contents_empty h0], rfl, h0⟩
  · have hpos : 0 < s.len.toNat := Nat.pos_of_ne_zero fun e => h0 (BitVec.eq_of_toNat_eq (by simpa using e))
    obtain ⟨t, ht, hs, hl, -, hb⟩ := flush_sends s hpos h
    have hne : contents s ≠ [] := List.ne_nil_of_length_pos (by rw [contents_length h]; exact hpos)
    exact ⟨t, _, ht, hs, by simp [flushOutcome, hne, contents_empty hl], hb, hl⟩

/-- The first half of `rowOutcome`: the dispatch of the key that fired (R144 to R149). -/
def dispatchOutcome (fired : Option Byte) (held : List Byte) : List Byte × List Byte :=
  match fired with
  | none => ([], held)
  | some k =>
    match classify k with
    | .flush => flushOutcome held
    | .clear => ([], [])
    | .data => ([], if held.length < Config.bufN then held ++ [k] else held)

/-- The second half of `rowOutcome`: the forced flush (R152). -/
def forceOutcome (held : List Byte) : List Byte × List Byte :=
  if held.length = Config.bufN then flushOutcome held else ([], held)

/-- The two halves make the whole. -/
theorem rowOutcome_eq (fired : Option Byte) (held : List Byte) :
    rowOutcome fired held =
      let d := dispatchOutcome fired held
      let f := forceOutcome d.2
      (d.1 ++ f.1, f.2) := by
  cases fired with
  | none => rfl
  | some k => cases hk : classify k <;> simp [rowOutcome, dispatchOutcome, forceOutcome, flushOutcome, hk]

/-- LEN may change without a transmission. -/
theorem Sends.setBuf (s : State) (b : Vector Byte Config.bufN) (l : Len) :
    Sends [] s { s with buf := b, len := l } where
  trace := ⟨[], by simp, rfl, spaced_nil _ _ _⟩
  now := by simp [slackSum_zero]
  slackAt := by
    intro j
    rfl
  slackIdx := rfl
  txd := id
  rowSel := rfl
  led := rfl
  ledSave := rfl
  snap := rfl
  pp := rfl
  res := rfl
  key := rfl
  par := rfl
  colQueue := rfl
  sampleIdx := rfl

/-- The dispatch of a row (R144 to R149). -/
theorem rowDispatch_spec (s : State) (h : s.len.toNat ≤ Config.bufN) :
    ∃ t bytes, rowDispatch s = .next t ∧ Sends bytes s t ∧
      (bytes, contents t) = dispatchOutcome (if resValid s.res then some s.key else none) (contents s) ∧
      (∀ j : Fin Config.bufN, j.val ≠ s.len.toNat → t.buf[j] = s.buf[j]) ∧ t.len.toNat ≤ Config.bufN := by
  cases hv : resValid s.res with
  | false => exact ⟨s, [], by simp [rowDispatch, hv], Sends.nil s, by simp [dispatchOutcome], fun _ _ => rfl, h⟩
  | true =>
    cases hk : classify s.key with
    | flush =>
      obtain ⟨t, bytes, ht, hs, hc, hb, hl⟩ := flush_spec s h
      refine ⟨t, bytes, by simpa [rowDispatch, hv, hk] using ht, hs, by simpa [dispatchOutcome, hk] using hc,
        fun _ _ => by rw [hb], by simp [hl]⟩
    | clear =>
      refine ⟨s.setLen 0#_, [], by simp [rowDispatch, hv, hk], Sends.setBuf s s.buf 0#_, ?_, fun _ _ => rfl, by simp⟩
      simp only [if_true, dispatchOutcome, hk, contents_empty (State.setLen_len s 0#_)]
    | data =>
      by_cases hr : s.len.toNat < Config.bufN
      · refine ⟨_, [], by simpa [rowDispatch, hv, hk] using keyData_room s.key hr, Sends.setBuf s _ _, ?_,
          fun j hj => ?_, by simpa [Config.toNat_len_succ hr] using hr⟩
        · rw [contents_append s.key hr]
          simp [dispatchOutcome, hk, contents_length h, hr]
        · simpa using Vector.getElem_set_ne _ _ hj.symm
      · have h8 : s.len.toNat = Config.bufN := Nat.le_antisymm h (Nat.not_lt.mp hr)
        refine ⟨s, [], by simpa [rowDispatch, hv, hk] using keyData_full s.key h8, Sends.nil s, ?_, fun _ _ => rfl, h⟩
        simp [dispatchOutcome, hk, contents_length h, hr]

/-- The forced flush of a row, after its slack (R152). -/
theorem rowForce_spec (s : State) (h : s.len.toNat ≤ Config.bufN) :
    ∃ t bytes, rowForce s = .next t ∧ Sends bytes s.slack t ∧ (bytes, contents t) = forceOutcome (contents s) ∧
      t.buf = s.buf ∧ t.len.toNat < Config.bufN := by
  by_cases h8 : s.len.toNat = Config.bufN
  · obtain ⟨t, bytes, ht, hs, hc, hb, hl⟩ := flush_spec s.slack h
    refine ⟨t, bytes, ?_, hs, ?_, hb, by simp [hl]⟩
    · rw [rowForce]
      rw [if_pos (by simpa using h8), forceFlush_full (by simpa using h8), ht]
    · rw [hc, contents_congr (s.slack_buf) (s.slack_len), forceOutcome, if_pos (by rw [contents_length h, h8])]
  · have hlt : s.len.toNat < Config.bufN := Nat.lt_of_le_of_ne h h8
    refine ⟨s.slack, [], ?_, Sends.nil _, ?_, rfl, hlt⟩
    · rw [rowForce]
      simp [h8]
    · rw [contents_congr (s.slack_buf) (s.slack_len), forceOutcome, if_neg (by rw [contents_length h]; exact h8)]

/-- The frames of IDENT (R158). -/
theorem sendIdent_sends (s : State) : Sends identBytes.toList s (sendIdent s) ∧ (sendIdent s).len = s.len ∧
    (sendIdent s).buf = s.buf ∧ (sendIdent s).flushIdx = s.flushIdx := by
  have key : ∀ (bytes : List Byte) (s : State),
      Sends bytes s (bytes.foldl State.txFrame s) ∧ (bytes.foldl State.txFrame s).len = s.len ∧
      (bytes.foldl State.txFrame s).buf = s.buf ∧ (bytes.foldl State.txFrame s).flushIdx = s.flushIdx := by
    intro bytes
    induction bytes with
    | nil => exact fun s => ⟨Sends.nil s, rfl, rfl, rfl⟩
    | cons b rest ih =>
      intro s
      obtain ⟨h1, h2, h3, h4⟩ := ih (s.txFrame b)
      exact ⟨(txFrame_sends s b).append h1, by simp [h2], by simp [h3], by simp [h4]⟩
  exact key identBytes.toList s

end Sys2Proof.Machine
end

