-- ==== Sys2Proof/Laws/Exec.lean ====
section
/-! SUPPORT. The dispatch in a state whose registers hold legal values, one equation an operation, and what a
step is at each of the sequencer's positions. -/

namespace Sys2Proof.Machine

section operations

variable {s : State} (h : Legal s)
include h

theorem exec_txFrame (d : Byte) : exec (.txFrame d) s = .next (s.txFrame d) := by
  rw [exec, execTxFrame, guardState_of_legal h]

theorem exec_scanRow (r : RowNum) : exec (.scanRow r) s = scanRow r s := by
  rw [exec, execScanRow, guardState_of_legal h]

theorem exec_rowStep (r : RowNum) : exec (.rowStep r) s = rowStep r s := by
  rw [exec, execRowStep, guardState_of_legal h]

theorem exec_keyLookup (r : RowNum) (c : ColNum) : exec (.keyLookup r c) s = keyLookup r c s := by
  rw [exec, execKeyLookup, guardState_of_legal h]

theorem exec_keyFlush : exec .keyFlush s = flush s := by rw [exec, execKeyFlush, guardState_of_legal h]

theorem exec_keyData (key : Byte) : exec (.keyData key) s = keyData key s := by
  rw [exec, execKeyData, guardState_of_legal h]

theorem exec_flush : exec .flush s = flush s := by rw [exec, execFlush, guardState_of_legal h]

theorem exec_forceFlush : exec .forceFlush s = forceFlush s := by rw [exec, execForceFlush, guardState_of_legal h]

end operations

/-- An operation completes only where the registers hold legal values. -/
theorem legal_of_exec {i : Instr} {s t : State} (h : exec i s = .next t) : Legal s := by
  cases i <;> simp only [exec] at h <;> exact (guardState_eq_next.mp h).1

/-- So does a step. -/
theorem legal_of_step {s t : State} (h : step s = .next t) : Legal s := (guardState_eq_next.mp h).1

section positions

variable {s : State} {r : Fin Config.nRows} (h : Legal s)
include h

theorem step_powerup (hp : s.pp = .powerup) : step s = .next ((s.hold s.par.powerupTicks).setPp (.ident 0)) := by
  simp [step, guardState_of_legal h, runPosition, opWord, hp, finish, before, after, nextPP]

theorem step_ident {i : Fin Config.identLen} (hp : s.pp = .ident i) :
    step s = .next ((s.txFrame identBytes[i]).setPp
      (if h : i.val + 1 < Config.identLen then .ident ⟨i.val + 1, h⟩ else .row 0 .scan)) := by
  have ht : (s.txFrame identBytes[i]).pp = .ident i := (txFrame_sends s _).pp.trans hp
  have hw : opWord s = some (.opD8 identBytes[i]) := by rw [opWord, hp]
  rw [step, guardState_of_legal h, runPosition, hw]
  simp only [decode, before, hp, exec_txFrame h, andThen_next, finish, after, nextPP, ht]

theorem step_scan (hp : s.pp = .row r .scan) {t : State} (ht : scanRow (rowNum r) s.slack = .next t)
    (htp : t.pp = s.pp) : step s = .next (t.setPp (.row r .save)) := by
  have hw : opWord s = some (.opR3 .scn (rowNum r)) := by rw [opWord, hp]
  rw [step, guardState_of_legal h, runPosition, hw]
  simp only [decode, before, hp, exec_scanRow (s := s.slack) h, ht, andThen_next, finish, after, nextPP, htp]

theorem step_save (hp : s.pp = .row r .save) : step s = .next (s.saveLed.setPp (.row r .lookup)) := by
  simp [step, guardState_of_legal h, runPosition, opWord, hp, finish, before, after, nextPP]

/-- The look-up of a row in which a key fired (R142, R143). -/
theorem step_lookup_key (hp : s.pp = .row r .lookup) (hv : resValid s.res = true) {k : Byte}
    (hk : keymapRead (keyIndex (rowNum r) (resCol s.res)) = some k) :
    step s = .next ((showKey { s with key := k }).setPp (.row r .dispatch)) := by
  have hw : opWord s = some (.scanRes3 (rowNum r) s.res) := by rw [opWord, hp]
  have hd : decode (.scanRes3 (rowNum r) s.res) = .ok (.keyLookup (rowNum r) (resCol s.res)) := by
    rw [decode, if_pos hv]
  rw [step, guardState_of_legal h, runPosition, hw]
  simp only [hd, before, hp, exec_keyLookup h, keyLookup_eq hk, andThen_next, finish, after, nextPP]
  simp [hv, showKey]

/-- The look-up of a row in which no key fired (R145). -/
theorem step_lookup_none (hp : s.pp = .row r .lookup) (h0 : s.res = 0#_) :
    step s = .next (s.setPp (.row r .force)) := by
  have hv : resValid s.res = false := by
    rw [h0]
    rfl
  have hw : opWord s = some (.scanRes3 (rowNum r) s.res) := by rw [opWord, hp]
  have hd : decode (.scanRes3 (rowNum r) s.res) = .ok .keyNone := by
    rw [decode, if_neg (by simp [hv]), if_pos h0]
  rw [step, guardState_of_legal h, runPosition, hw]
  simp only [hd, before, hp, exec, execKeyNone, guardState_of_legal h, andThen_next, finish, after, nextPP]
  simp [hv]

/-- The dispatch of a key (R144). -/
theorem step_dispatch (hp : s.pp = .row r .dispatch) (hv : resValid s.res = true) {t : State}
    (ht : rowDispatch s = .next t) (htp : t.pp = s.pp) : step s = .next (t.setPp (.row r .force)) := by
  have hf : finish t = t.setPp (.row r .force) := by simp only [finish, after, nextPP, htp, hp]
  have hb : before s = s := by rw [before, hp]
  have hw : opWord s = some (.key8 s.key) := by rw [opWord, hp]
  rw [rowDispatch, if_pos hv] at ht
  rw [step, guardState_of_legal h, runPosition, hw]
  cases hk : classify s.key <;> simp only [hk] at ht <;> simp only [decode, hk, hb]
  · rw [exec_keyFlush h, ht, andThen_next, hf]
  · rw [exec, execKeyClear, guardState_of_legal h, ht, andThen_next, hf]
  · rw [exec_keyData h, ht, andThen_next, hf]

/-- The forced flush (R152). -/
theorem step_force (hp : s.pp = .row r .force) {t : State} (ht : rowForce s = .next t) (htp : t.pp = s.pp) :
    step s = .next (t.setPp (.row r .settle)) := by
  have hf : finish t = t.setPp (.row r .settle) := by simp only [finish, after, nextPP, htp, hp]
  have hb : before s = s.slack := by rw [before, hp]
  have ho : opWord s = if s.len.toNat = Config.bufN then some (.seq .forceFlush) else none := by rw [opWord, hp]
  change (if s.len.toNat = Config.bufN then forceFlush s.slack else .next s.slack) = .next t at ht
  rw [step, guardState_of_legal h, runPosition, ho]
  by_cases h8 : s.len.toNat = Config.bufN
  · rw [if_pos h8] at ht
    rw [if_pos h8]
    simp only [decode, hb]
    rw [exec_forceFlush (s := s.slack) h, ht, andThen_next, hf]
  · rw [if_neg h8] at ht
    cases ht
    rw [if_neg h8, hb, hf]

theorem step_restore (hp : s.pp = .row r .restore) :
    step s = .next ((rowRestore s).setPp
      (if h : r.val + 1 < Config.nRows then .row ⟨r.val + 1, h⟩ .scan else .cycleEnd)) := by
  have ht : (rowRestore s).pp = .row r .restore := hp
  have hw : opWord s = none := by rw [opWord, hp]
  rw [step, guardState_of_legal h, runPosition, hw]
  simp only [finish, before, hp, after, nextPP, ht]

theorem step_cycleEnd (hp : s.pp = .cycleEnd) {t : State} (ht : exec .cycleEnd s = .next t) (htp : t.pp = s.pp) :
    step s = .next (t.setPp (.row 0 .scan)) := by
  have hw : opWord s = some (.seq .cycleEnd) := by rw [opWord, hp]
  rw [step, guardState_of_legal h, runPosition, hw]
  simp only [decode, before, hp, ht, andThen_next, finish, after, nextPP, htp]

end positions

end Sys2Proof.Machine
end

