-- ==== Sys2Proof/Laws/PerInstr.lean ====
section
/-! SUPPORT. The round trip of decode and encode, one lemma a constructor of Instr (LAWS.json names the family). -/

namespace Sys2Proof.Laws.RoundTrip

/-- A well-formed operation is what its own word decodes to (R80, R82, R85 to R89). -/
def Statement (i : Instr) : Prop := i.wellFormed = true → decode (encode i) = .ok i

theorem txFrame (d : Byte) : Statement (.txFrame d) := fun _ => rfl

theorem scanRow (r : RowNum) : Statement (.scanRow r) := fun _ => rfl

theorem rowStep (r : RowNum) : Statement (.rowStep r) := fun _ => rfl

theorem keyNone : Statement .keyNone := fun _ => rfl

theorem keyLookup (r : RowNum) (c : ColNum) : Statement (.keyLookup r c) := by
  have h : ∀ c : ColNum, resValid (resOfCol c) = true ∧ resCol (resOfCol c) = c := by decide
  intro _
  simp only [encode, decode, h, if_true]

theorem keyFlush : Statement .keyFlush := fun _ => rfl

theorem keyClear : Statement .keyClear := fun _ => rfl

theorem keyData (key : Byte) : Statement (.keyData key) := by
  intro hw
  have h : classify key = .data := by simpa [Instr.wellFormed] using hw
  simp only [encode, decode, h]

theorem flush : Statement .flush := fun _ => rfl

theorem forceFlush : Statement .forceFlush := fun _ => rfl

theorem cycleEnd : Statement .cycleEnd := fun _ => rfl

theorem startup : Statement .startup := fun _ => rfl

end Sys2Proof.Laws.RoundTrip
end

