-- ==== Sys2Proof/Laws/RowTail.lean ====
section
/-! SUPPORT. What a row does after its look-up: dispatch, forced flush, settle hold and restore as one. -/

namespace Sys2Proof.Machine

/-- From s, where the look-up has ended, to t, where the row has ended: `bytes` go out, LED is restored, and nothing
else changes but BUF at LEN, LEN and the time. -/
structure RowTail (bytes : List Byte) (s t : State) : Prop where
  outcome : (bytes, contents t) = rowOutcome (if resValid s.res then some s.key else none) (contents s)
  trace : ∃ frames,
    t.trace = s.trace ++ lineEvents s.par.uiTicks frames ++ [{ time := t.now, signal := .led s.ledSave }] ∧
    frames.map Prod.snd = bytes ∧ spaced s.now t.now s.par.uiTicks frames
  now : t.now = s.now + (if resValid s.res then s.par.keySettleUi * s.par.uiTicks else 0) +
    Config.phases * bytes.length * s.par.uiTicks + slackSum s (2 + bytes.length)
  buf : ∀ j : Fin Config.bufN, j.val ≠ s.len.toNat → t.buf[j] = s.buf[j]
  len : t.len.toNat < Config.bufN
  led : t.led = s.ledSave
  ledSave : t.ledSave = s.ledSave
  rowSel : t.rowSel = s.rowSel
  snap : t.snap = s.snap
  pp : t.pp = s.pp
  par : t.par = s.par
  colQueue : t.colQueue = s.colQueue
  sampleIdx : t.sampleIdx = s.sampleIdx
  txd : s.txd = true → t.txd = true
  res : t.res = s.res
  key : t.key = s.key

/-- The draw before the next n draws. -/
theorem slackSum_succ (s : State) (n : Nat) : slackSum s (n + 1) = s.slackAt 0 + slackSum s.slack n := by
  rw [Nat.add_comm, slackSum_add, slackSum_one, slackSum]
  congr 2
  exact List.map_congr_left fun j _ => (State.slack_slackAt s j).symm

/-- The settle hold touches the time alone. -/
theorem rowSettle_eq (s : State) :
    rowSettle s = { s with now := s.now + (if resValid s.res then s.par.keySettleUi * s.par.uiTicks else 0) } := by
  rw [rowSettle]
  split <;> rfl

/-- The tail of a row in every state with a legal LEN. -/
theorem rowTail_spec (s : State) (h : s.len.toNat ≤ Config.bufN) :
    ∃ u v bytes, rowDispatch s = .next u ∧ rowForce u = .next v ∧ RowTail bytes s (rowRestore (rowSettle v)) := by
  obtain ⟨u, b1, hu, su, cu, bu, lu⟩ := rowDispatch_spec s h
  obtain ⟨v, b2, hv, sv, cv, bv, lv⟩ := rowForce_spec u lu
  have hhold : (if resValid v.res then v.par.keySettleUi * v.par.uiTicks else 0) =
      if resValid s.res then s.par.keySettleUi * s.par.uiTicks else 0 := by
    rw [sv.res, State.slack_res, su.res, sv.par, State.slack_par, su.par]
  have hu0 : s.now ≤ u.now := by
    have := su.now
    omega
  have hv0 : u.slack.now ≤ v.now := by
    have := sv.now
    omega
  have hs0 : u.now ≤ u.slack.now := by simp
  refine ⟨u, v, b1 ++ b2, hu, hv, ?_⟩
  rw [rowSettle_eq, hhold]
  have hend : v.now ≤ (rowRestore { v with now := v.now + (if resValid s.res then s.par.keySettleUi * s.par.uiTicks
      else 0) }).now := by
    simp only [rowRestore, State.writeLed_now, State.slack_now]
    omega
  constructor
  case outcome =>
    rw [rowOutcome_eq]
    simp only [← cu]
    rw [← cv]
    rfl
  case trace =>
    obtain ⟨x, hx, hxb, hxs⟩ := su.trace
    obtain ⟨y, hy, hyb, hys⟩ := sv.trace
    rw [State.slack_par, su.par] at hy hys
    refine ⟨x ++ y, ?_, by rw [List.map_append, hxb, hyb], ?_⟩
    · simp [rowRestore, State.writeLed, State.emit, State.slack, hy, hx, sv.ledSave, su.ledSave]
    · exact spaced_append (mid := u.slack.now) (by omega) (by omega) (spaced_mono (Nat.le_refl _) hs0 hxs)
        (spaced_mono (Nat.le_refl _) hend hys)
  case now =>
    have e : 2 + (b1 ++ b2).length = b1.length + ((b2.length + 1) + 1) := by
      rw [List.length_append]
      omega
    have a1 := sv.now
    have a2 := su.now
    rw [e, su.slackSum_eq, slackSum_succ, sv.slackSum_eq, slackSum_one]
    change v.now + _ + v.slackAt 0 = _
    simp only [a1, a2, su.par, State.slack_now, State.slack_par, List.length_append]
    ring
  case buf =>
    intro j hj
    change v.buf[j] = s.buf[j]
    rw [bv]
    exact bu j hj
  case len => exact lv
  case led => exact sv.ledSave.trans su.ledSave
  case ledSave => exact sv.ledSave.trans su.ledSave
  case rowSel => exact sv.rowSel.trans su.rowSel
  case snap => exact sv.snap.trans su.snap
  case pp => exact sv.pp.trans su.pp
  case par => exact sv.par.trans su.par
  case colQueue => exact sv.colQueue.trans su.colQueue
  case sampleIdx => exact sv.sampleIdx.trans su.sampleIdx
  case txd => exact fun e => sv.txd (su.txd e)
  case res => exact sv.res.trans su.res
  case key => exact sv.key.trans su.key

end Sys2Proof.Machine
end

