-- ==== Sys2Proof/Tests/Slice0.lean ====
section
/-! SUPPORT. The package's own tests: the checks of WellFormed, words written out from spec/30_encoding.md, the
vectors of spec/95_test_vectors.md, and for each statement with hypotheses a state and operands that meet them. -/

namespace Sys2Proof.Tests

open Sys2Proof.Machine

/-! ### Helpers -/

/-- The test values of spec/95_test_vectors.md, section 0. -/
def lab : Params where
  uiTicks := 10
  rowSettleTicks := 1
  powerupTicks := 100
  keySettleUi := 8
  cycleDebounceTicks := 3840
  rowActiveLevel := false
  colActiveLevel := false
  ledOnLevel := true

/-- A state after reset with the test values, the given snapshots, the given samples to come, and slacks of 0. -/
def start (snap : Cols) (samples : List Cols) : State :=
  { State.resetWith lab (Vector.replicate _ snap) with colQueue := samples, slackQueue := List.replicate 16 0 }

/-- The same state with codes in the buffer. -/
def holding (codes : List Byte) (s : State) : State :=
  { s with buf := Vector.ofFn fun i => codes.getD i.val 0x00#_, len := BitVec.ofNat _ codes.length }

/-- What a completed operation shows. -/
def shows {α : Type} (o : Out) (f : State → α) : Option α :=
  match o with
  | .next t => some (f t)
  | .fault _ => none
  | .refused _ => none

/-- The fault of a stopped operation. -/
def faultOf (o : Out) : Option Fault :=
  match o with
  | .next _ => none
  | .fault e => some e
  | .refused _ => none

/-- The codes 1 to 7 of vectors V5 and V8. -/
def seven : List Byte := [0x31#_, 0x32#_, 0x33#_, 0x34#_, 0x35#_, 0x36#_, 0x37#_]

/-! ### WellFormed: one ill-formed term for each check -/

theorem test_wf_scan_row : (Instr.scanRow 4#_).wellFormed = true ∧ (Instr.scanRow 5#_).wellFormed = false := by decide

theorem test_wf_row_step : (Instr.rowStep 0#_).wellFormed = true ∧ (Instr.rowStep 7#_).wellFormed = false := by decide

theorem test_wf_key_lookup :
    (Instr.keyLookup 4#_ 3#_).wellFormed = true ∧ (Instr.keyLookup 5#_ 0#_).wellFormed = false := by decide

theorem test_wf_key_data : (Instr.keyData 0x50#_).wellFormed = true ∧ (Instr.keyData 0x45#_).wellFormed = false ∧
    (Instr.keyData 0x43#_).wellFormed = false := by decide

/-! ### Words written out from R73, R78, R80 and R85 to R89 -/

theorem test_decode_tx_frame : decode (.opD8 0b01000101#_) = .ok (.txFrame 0x45#_) := by decide

theorem test_decode_scan_row : decode (.opR3 .scn 0b100#_) = .ok (.scanRow 4#_) := by decide

theorem test_decode_row_step : decode (.opR3 .ctl 0b001#_) = .ok (.rowStep 1#_) := by decide

theorem test_decode_key_none : decode (.scanRes3 0b010#_ 0b000#_) = .ok .keyNone := by decide

theorem test_decode_key_lookup : decode (.scanRes3 0b011#_ 0b110#_) = .ok (.keyLookup 3#_ 2#_) := by decide

theorem test_decode_reserved_result : decode (.scanRes3 0b000#_ 0b010#_) = .error .resultRange := by decide

theorem test_decode_key_flush : decode (.key8 0b01000101#_) = .ok .keyFlush := by decide

theorem test_decode_key_clear : decode (.key8 0b01000011#_) = .ok .keyClear := by decide

theorem test_decode_key_data : decode (.key8 0b01001101#_) = .ok (.keyData 0x4D#_) := by decide

/-- R81: a byte outside the key map is data too. -/
theorem test_decode_key_other : decode (.key8 0b11111111#_) = .ok (.keyData 0xFF#_) := by decide

theorem test_decode_seq :
    decode (.seq .startup) = .ok .startup ∧ decode (.seq .cycleEnd) = .ok .cycleEnd ∧
    decode (.seq .forceFlush) = .ok .forceFlush ∧ decode (.seq .flush) = .ok .flush := by decide

/-- Words of spec/opcode_table.json's KEY8 and SCANRES3 rows. -/
theorem test_table_words :
    decodeTableWord 8 0x45 = some .keyFlush ∧ decodeTableWord 8 0x43 = some .keyClear ∧
    decodeTableWord 8 0x30 = some (.keyData 0x30#_) ∧ decodeTableWord 8 0b000 = some .keyNone ∧
    decodeTableWord 8 0b111 = some (.keyLookup 0#_ 3#_) ∧ decodeTableWord 8 0b010 = none := by decide

/-- R73's table, row by row: the hexadecimal codes of rows 0 to 4. -/
theorem test_keymap_codes : keymap.toList.map BitVec.toNat =
    [0x50, 0x31, 0x32, 0x33, 0x54, 0x34, 0x35, 0x36, 0x4D, 0x37, 0x38, 0x39, 0x42, 0x43, 0x30, 0x45, 0x4F, 0x53,
      0x4C, 0x41] := by decide

/-- Spec 2.1: the frame words of `E`, `N`, 0x00 and 0xFF. -/
theorem test_frame_words : frameWord 0x45#_ = 0x28A#_ ∧ frameWord 0x4E#_ = 0x29C#_ ∧
    frameWord 0x00#_ = 0x200#_ ∧ frameWord 0xFF#_ = 0x3FE#_ := by decide

/-- R76: the five row selects and the idle value. -/
theorem test_row_lines : (List.range 5).map (fun r => rowOne lab (BitVec.ofNat _ r)) =
    [0b11110#_, 0b11101#_, 0b11011#_, 0b10111#_, 0b01111#_] ∧ rowIdle lab = 0b11111#_ := by decide

/-- R77: the four indicators. -/
theorem test_indicators :
    (List.range 4).map (fun c => ind lab (BitVec.ofNat _ c)) = [0b0001#_, 0b0010#_, 0b0100#_, 0b1000#_] := by decide

/-- R79: the truth table. -/
theorem test_priority : (List.range 16).map (fun e => prio (BitVec.ofNat _ e)) =
    [0b000#_, 0b100#_, 0b101#_, 0b100#_, 0b110#_, 0b100#_, 0b101#_, 0b100#_,
      0b111#_, 0b100#_, 0b101#_, 0b100#_, 0b110#_, 0b100#_, 0b101#_, 0b100#_] := by decide

/-! ### One operation on a small state -/

/-- Spec 2.1, the timed vector of `TX.FRAME 0x4E` at 200. -/
theorem test_tx_frame :
    shows (exec (.txFrame 0x4E#_) { start 0xF#_ [] with now := 200 }) (fun t => (t.now, t.txd, t.trace)) =
    some (300, true, [⟨200, .txd false⟩, ⟨210, .txd false⟩, ⟨220, .txd true⟩, ⟨230, .txd true⟩, ⟨240, .txd true⟩,
      ⟨250, .txd false⟩, ⟨260, .txd false⟩, ⟨270, .txd true⟩, ⟨280, .txd false⟩, ⟨290, .txd true⟩]) := by
  decide +kernel

/-- S8: two columns together, the lower one fires. -/
theorem test_scan_two_columns :
    shows (exec (.scanRow 2#_) (start 0xF#_ [0b1001#_])) (fun t => (t.res, t.snap[2], t.now)) =
    some (0b101#_, 0b1001#_, 1) := by decide +kernel

/-- S16: one column released, another pressed. -/
theorem test_scan_swap :
    shows (exec (.scanRow 0#_) (start 0b1110#_ [0b1101#_])) (fun t => (t.res, t.snap[0], t.snap[1])) =
    some (0b101#_, 0b1101#_, 0b1110#_) := by decide +kernel

/-- V5: the append that fills the buffer, and the forced flush in the same row. -/
theorem test_row_step_forced_flush :
    shows (exec (.rowStep 4#_) (holding seven (start 0xF#_ [0b1110#_]))) (fun t => (sentBytes t.trace, t.len, t.now)) =
    some (seven ++ [0x4F#_, 0x45#_], 0#_, 981) := by decide +kernel

/-- V11: the drop in a full buffer, and the forced flush of the eight old codes. -/
theorem test_row_step_full :
    shows (exec (.rowStep 0#_) (holding (seven ++ [0x38#_]) (start 0xF#_ [0b1101#_])))
      (fun t => (sentBytes t.trace, t.len, t.now)) = some (seven ++ [0x38#_, 0x45#_], 0#_, 981) := by decide +kernel

/-- R141's example: the LED shows the column and goes off. -/
theorem test_row_step_led :
    shows (exec (.rowStep 0#_) (start 0xF#_ [0b1110#_])) (fun t => (ledWrites t.trace, t.buf[0], t.len)) =
    some ([(1, 0b0001#_), (81, 0b0000#_)], 0x50#_, 1#_) := by decide +kernel

/-- R142's example. -/
theorem test_key_lookup : shows (exec (.keyLookup 3#_ 3#_) (start 0xF#_ [])) (fun t => t.key) = some 0x45#_ := by
  decide +kernel

/-- V7. -/
theorem test_key_flush :
    shows (exec .keyFlush (holding [0x50#_] (start 0xF#_ []))) (fun t => (sentBytes t.trace, t.len, t.now)) =
    some ([0x50#_, 0x45#_], 0#_, 200) := by decide +kernel

/-- R149's example: three codes are cleared, nothing goes out. -/
theorem test_key_clear :
    shows (exec .keyClear (holding [0x50#_, 0x54#_, 0x4D#_] (start 0xF#_ []))) (fun t => (t.trace, t.len)) =
    some ([], 0#_) := by decide +kernel

/-- R147's example. -/
theorem test_key_data :
    shows (exec (.keyData 0x37#_) (holding [0x50#_, 0x54#_] (start 0xF#_ []))) (fun t => (t.buf[2], t.len)) =
    some (0x37#_, 3#_) := by decide +kernel

/-- R145's example. -/
theorem test_row_step_quiet :
    shows (exec (.rowStep 2#_) (start 0xF#_ [0b1111#_])) (fun t => (t.rowSel, t.snap[2], t.len, t.led, t.now)) =
    some (0b11011#_, 0b1111#_, 0#_, 0b0000#_, 1) := by decide +kernel

/-- Spec 2.4, LEN = 2. -/
theorem test_flush :
    shows (exec .flush (holding [0x31#_, 0x32#_] (start 0xF#_ []))) (fun t => (sentBytes t.trace, t.now)) =
    some ([0x31#_, 0x32#_, 0x45#_], 300) := by decide +kernel

/-- R152: with seven codes nothing is forced. -/
theorem test_force_flush : shows (exec .forceFlush (holding seven (start 0xF#_ []))) (fun t => (t.trace, t.len)) =
    some ([], 7#_) := by decide +kernel

/-- R160's example: 384 unit intervals with the rows idle and the LEDs off. -/
theorem test_cycle_end :
    shows (exec .cycleEnd { start 0xF#_ [] with rowSel := 0b01111#_ }) (fun t => (t.rowSel, t.led, t.now)) =
    some (0b11111#_, 0b0000#_, 3840) := by decide +kernel

/-- R158's example with the test values: INITE, and 600 ticks. -/
theorem test_startup : shows (exec .startup (start 0xF#_ [])) (fun t => (sentBytes t.trace, t.now)) =
    some ([0x49#_, 0x4E#_, 0x49#_, 0x54#_, 0x45#_], 600) := by decide +kernel

/-- R104: from the waveform of STARTUP a listener that reads in the middle of each phase recovers INITE. -/
theorem test_listener : shows (exec .startup (start 0xF#_ [])) (fun t => heard (midPhase t) t) =
    some [0x49#_, 0x4E#_, 0x49#_, 0x54#_, 0x45#_] := by decide +kernel

/-! ### Model faults (spec 2.6) -/

theorem test_row_range : faultOf (exec (.scanRow 5#_) (start 0xF#_ [])) = some .rowRange ∧
    faultOf (exec (.rowStep 7#_) (start 0xF#_ [])) = some .rowRange := by decide +kernel

theorem test_key_index_range : faultOf (exec (.keyLookup 5#_ 0#_) (start 0xF#_ [])) = some .keyIndexRange := by
  decide +kernel

theorem test_len_range : faultOf (exec .keyNone { start 0xF#_ [] with len := 9#_ }) = some .lenRange ∧
    faultOf (step { start 0xF#_ [] with len := 9#_ }) = some .lenRange := by decide +kernel

/-- A reserved result is found wherever the sequencer stands, and by an operation. -/
theorem test_result_range :
    ([.scan, .save, .lookup, .dispatch, .force, .settle, .restore] : List RowPos).map (fun p =>
      faultOf (step { start 0xF#_ [] with pp := .row 0 p, res := 0b010#_ })) = List.replicate 7 (some .resultRange) ∧
    faultOf (exec .keyNone { start 0xF#_ [] with res := 0b001#_ }) = some .resultRange := by decide +kernel

theorem test_buf_index_range : faultOf ((start 0xF#_ []).bufWrite 8 0x50#_) = some .bufIndexRange ∧
    (start 0xF#_ []).bufRead 8 = none := by decide +kernel

/-! ### Steps -/

/-- The first step after reset is the power-up hold, and the word a table row places runs as the next step. -/
theorem test_steps : shows (step (start 0xF#_ [])) (fun t => (t.pp, t.now)) = some (.ident 0, 100) ∧
    shows (step ((start 0xF#_ []).withFetchWord 8 0x50)) (fun t => (t.pp, t.buf[0], t.len)) =
      some (.row 0 .force, 0x50#_, 1#_) ∧
    shows (step (State.reset.withFetchWord 8 0b101)) (fun t => (t.pp, t.key)) = some (.row 0 .dispatch, 0x31#_) := by
  decide +kernel

/-! ### A state and operands that meet the hypotheses of each statement -/

/-- LEN = 0, and column 0 is about to be sampled active in a row where it was not. -/
def empty : State := start 0xF#_ [0b1110#_]

/-- LEN = 8, and the same sample. -/
def full : State := holding (seven ++ [0x38#_]) empty

/-- Whole frames, a hundred ticks each: IDENT, and then one group with its end marker. -/
def onLine : List (Nat × Byte) :=
  [(100, 0x49#_), (200, 0x4E#_), (300, 0x49#_), (400, 0x54#_), (500, 0x45#_), (700, 0x50#_), (800, 0x45#_)]

/-- A state between two rows, with one group on the line after IDENT and one code in the buffer. -/
def betweenRows : State :=
  holding [0x54#_] { empty with
    pp := .row 1 .scan, rowSel := 0b11110#_
    now := 1000, trace := lineEvents 10 onLine }

/-- A state whose key `E` of row 3 is about to be dispatched, with seven codes in the buffer. -/
def dispatching : State :=
  holding seven { empty with
    pp := .row 3 .dispatch, rowSel := 0b10111#_, led := 0b1000#_, res := 0b111#_, key := 0x45#_ }

/-- A state at the forced flush of row 0, the buffer full. -/
def forcing : State := { full with pp := .row 0 .force, rowSel := 0b11110#_, led := 0b0001#_, res := 0b100#_ }

/-- The last legal row and column, and a data code. -/
theorem witness_DecodeEncodeRoundTrip :
    (Instr.scanRow 4#_).wellFormed = true ∧ (Instr.keyLookup 4#_ 3#_).wellFormed = true ∧
    (Instr.keyData 0xFF#_).wellFormed = true := by decide

/-- A legal row on each side: the three reserved results are refused, the last legal words decode. -/
theorem witness_DecoderRefusesOnlyReservedResults : decode (.scanRes3 4#_ 0b001#_) = .error .resultRange ∧
    decode (.scanRes3 4#_ 0b010#_) = .error .resultRange ∧ decode (.scanRes3 4#_ 0b011#_) = .error .resultRange ∧
    decode (.scanRes3 4#_ 0b000#_) = .ok .keyNone ∧ decode (.scanRes3 4#_ 0b100#_) = .ok (.keyLookup 4#_ 0#_) ∧
    decode (.opR3 .ctl 4#_) = .ok (.rowStep 4#_) ∧ legalRow 4#_ = true := by decide

/-- No column rises; only column 3 rises. -/
theorem witness_PriorityEncoderTakesLowestColumn :
    ((∀ c : ColNum,
      ¬ ((0xF#_ : Cols).getLsbD c.toNat = lab.colActiveLevel ∧ (0xF#_ : Cols).getLsbD c.toNat ≠ lab.colActiveLevel)) ∧
    prio (edges lab 0xF#_ 0xF#_) = 0b000#_) ∧
    (0b0111#_ : Cols).getLsbD 3 = lab.colActiveLevel ∧ (0xF#_ : Cols).getLsbD 3 ≠ lab.colActiveLevel ∧
    ∀ c' : ColNum, c' < 3#_ → (0b0111#_ : Cols).getLsbD c'.toNat ≠ lab.colActiveLevel := by decide

/-- The polarity of the second clause. -/
theorem witness_EdgeDetectorWorksLaneByLane : lab.colActiveLevel = false := rfl

/-- LEN at 0 and at 8; the first and the last instant of the first and the last phase. -/
theorem witness_TxFrameWaveform : Legal empty ∧ Legal full ∧
    (empty.now + empty.slackAt 0 + 0 * empty.par.uiTicks ≤ 0 ∧
    9 < empty.now + empty.slackAt 0 + (0 + 1) * empty.par.uiTicks) ∧
    empty.now + empty.slackAt 0 + 9 * empty.par.uiTicks ≤ 90 ∧
    99 < empty.now + empty.slackAt 0 + (9 + 1) * empty.par.uiTicks := by decide +kernel

/-- LEN at 0 and at 8. -/
theorem witness_TxFrameTakesTenPhases : Legal empty ∧ Legal full := by decide

/-- LEN at 0 and at 8, a unit interval that is not empty, and an instant between the two frames. -/
theorem witness_FramesKeepAStopGap : Legal empty ∧ Legal full ∧ 0 < empty.par.uiTicks ∧
    empty.now + empty.slackAt 0 + 9 * empty.par.uiTicks ≤ 95 ∧
    shows (exec (.txFrame 0x00#_) empty) (fun t => decide (95 < t.now + t.slackAt 0)) = some true := by decide +kernel

/-- Frames with a gap and without one, LEN at 0 and at 8, and a listener that reads each phase in its middle. -/
theorem witness_ListenerRecoversTheByte :
    Framed betweenRows onLine ∧ (∀ t0 i, midPhase betweenRows t0 i < betweenRows.par.uiTicks) ∧
    Legal empty ∧ Legal full ∧ Framed empty [] :=
  ⟨⟨by decide +kernel, by unfold spaced; decide +kernel⟩, fun _ _ => show 5 < 10 by decide, by decide, by decide,
    rfl, by simp [spaced]⟩

/-- All five operations complete, on an empty and on a full buffer. -/
theorem witness_TransmittingOperationsFrame :
    (∃ t, exec (.txFrame 0x45#_) empty = .next t) ∧ (∃ t, exec .startup empty = .next t) ∧
    (∃ t, exec .flush full = .next t) ∧ (∃ t, exec .keyFlush empty = .next t) ∧
    ∃ t, exec .forceFlush full = .next t := ⟨⟨_, rfl⟩, ⟨_, rfl⟩, ⟨_, rfl⟩, ⟨_, rfl⟩, ⟨_, rfl⟩⟩

/-- All six operations complete. -/
theorem witness_OtherOperationsLeaveTxdAlone :
    (∃ t, exec (.scanRow 4#_) empty = .next t) ∧ (∃ t, exec .keyNone empty = .next t) ∧
    (∃ t, exec (.keyLookup 4#_ 3#_) empty = .next t) ∧ (∃ t, exec .keyClear full = .next t) ∧
    (∃ t, exec (.keyData 0x50#_) full = .next t) ∧
    ∃ t, exec .cycleEnd empty = .next t := ⟨⟨_, rfl⟩, ⟨_, rfl⟩, ⟨_, rfl⟩, ⟨_, rfl⟩, ⟨_, rfl⟩, ⟨_, rfl⟩⟩

/-- LEN at 0 and at 8. -/
theorem witness_ScanRowSamplesAndStores : Legal empty ∧ Legal full := by decide

/-- Column 0 of row 0 is pressed now and was not; the state after the scan is one that has its snapshot. -/
theorem witness_HeldKeyFiresOnce :
    Legal empty ∧ Legal full ∧ (act empty.par empty.nextSample).getLsbD 0 = true ∧
    (act empty.par empty.snap[0]).getLsbD 0 = false ∧
    (∀ c' : ColNum, c' < 0#_ → (edges empty.par empty.nextSample empty.snap[0]).getLsbD c'.toNat = false) ∧
    shows (exec (.scanRow 0#_) empty) (fun t => decide (Legal t)) = some true := by decide +kernel

/-- Columns 1 and 3 rise together and column 0 does not (S8's case). -/
theorem witness_SimultaneousEdgesAreAbsorbed : (1#_ : ColNum) < 3#_ ∧ Legal empty ∧
    (edges lab 0b0101#_ empty.snap[0]).getLsbD 1 = true ∧ (edges lab 0b0101#_ empty.snap[0]).getLsbD 3 = true ∧
    (∀ c0 : ColNum, c0 < 1#_ → (edges lab 0b0101#_ empty.snap[0]).getLsbD c0.toNat = false) ∧
    (start 0xF#_ [0b0101#_]).nextSample = 0b0101#_ := by decide +kernel

/-- Two states that differ in the buffer and in another row's snapshot. -/
theorem witness_ScanDependsOnItsRowOnly :
    Legal empty ∧ Legal full ∧ empty.par = full.par ∧ empty.nextSample = full.nextSample ∧
    empty.snap[0] = ({ full with snap := full.snap.set 1 0x0#_ } : State).snap[0] ∧ empty.len ≠ full.len := by decide

/-- LEN at 0 and at 8. -/
theorem witness_KeyLookupReadsTheMap : Legal empty ∧ Legal full := by decide

/-- LEN at 0 and at 8. -/
theorem witness_KeyNoneChangesNothing : Legal empty ∧ Legal full := by decide

/-- LEN at 0 and at 7. -/
theorem witness_KeyDataAppends :
    Legal empty ∧ empty.len.toNat < Config.bufN ∧ Legal dispatching ∧ dispatching.len.toNat = 7 ∧
    dispatching.len.toNat < Config.bufN := by decide

/-- A full buffer. -/
theorem witness_KeyDataDropsWhenFull : Legal full ∧ full.len.toNat = Config.bufN := by decide

/-- LEN at 0 and at 8. -/
theorem witness_KeyClearEmptiesTheBuffer : Legal empty ∧ Legal full := by decide

/-- LEN at 1 and at 8. -/
theorem witness_FlushSendsTheBuffer :
    0 < betweenRows.len.toNat ∧ Legal betweenRows ∧ 0 < full.len.toNat ∧ Legal full := by decide

/-- An empty buffer. -/
theorem witness_EmptyFlushSendsNothing : Legal empty ∧ empty.len = 0#_ := by decide

/-- LEN at 8, and at 0 and 7. -/
theorem witness_ForceFlushOnlyWhenFull :
    Legal full ∧ full.len.toNat = Config.bufN ∧ Legal empty ∧ empty.len.toNat < Config.bufN ∧ Legal dispatching ∧
    dispatching.len.toNat < Config.bufN := by decide

/-- No code and eight codes, on an empty buffer. -/
theorem witness_AppendedCodesGoOutInOrder :
    ([] : List Byte).length ≤ Config.bufN ∧ (seven ++ [0x38#_]).length ≤ Config.bufN ∧ Legal empty ∧
    empty.len = 0#_ := by decide

/-- Eight codes, on an empty buffer. -/
theorem witness_NinthCodeStartsANewBuffer :
    (seven ++ [0x38#_]).length = Config.bufN ∧ Legal empty ∧ empty.len = 0#_ := by decide

/-- Two states that differ in entry 7, with seven codes held. -/
theorem witness_StaleEntriesAreNeverSent : Legal dispatching ∧
    sameButStale dispatching { dispatching with buf := dispatching.buf.set 7 0xAA#_ } := by
  refine ⟨by decide, ?_, rfl⟩
  decide

/-- LEN at 0 and at 8. Column 0 fires in row 0. -/
theorem witness_RowStepRefinesTheDispatch : Legal empty ∧ Legal full := by decide

/-- LEN at 0 and at 8. Column 0 fires in row 0. -/
theorem witness_RowStepDuration : Legal empty ∧ Legal full := by decide

/-- LEN at 0 and at 8. Column 0 fires in row 0. -/
theorem witness_RowStepSelectsAndSamplesOnce : Legal empty ∧ Legal full := by decide

/-- LEN at 0 and at 8. Column 0 fires in row 0. -/
theorem witness_RowStepShowsTheColumn : Legal empty ∧ Legal full := by decide

/-- A row that completes in which no key fires, and one in which a key fires that is no data code; the line is idle. -/
theorem witness_RowStepFrame : (∃ t, exec (.rowStep (rowNum 0)) (start 0xF#_ [0xF#_]) = .next t) ∧
    firedKey 0 (start 0xF#_ [0xF#_]) = none ∧
    (∃ t, exec (.rowStep (rowNum 3)) (start 0xF#_ [0b0111#_]) = .next t) ∧
    firedKey 3 (start 0xF#_ [0b0111#_]) = some 0x45#_ ∧ classify 0x45#_ ≠ .data ∧
    (start 0xF#_ [0xF#_]).txd = true := ⟨⟨_, rfl⟩, by decide +kernel, ⟨_, rfl⟩, by decide +kernel, by decide, rfl⟩

/-- LEN at 0 and at 7, and a sample that shows no key. -/
theorem witness_QuietRowChangesNoKeyState :
    scanResult 0 (start 0xF#_ [0xF#_]) = 0b000#_ ∧ Legal (start 0xF#_ [0xF#_]) ∧
    (start 0xF#_ [0xF#_]).len.toNat < Config.bufN ∧
    scanResult 0 (holding seven (start 0xF#_ [0xF#_])) = 0b000#_ ∧ Legal (holding seven (start 0xF#_ [0xF#_])) ∧
    (holding seven (start 0xF#_ [0xF#_])).len.toNat < Config.bufN := by decide +kernel

/-- LEN at 0 and at 8. -/
theorem witness_RowStepLeavesRoom : Legal empty ∧ Legal full := by decide

/-- LEN at 0 and at 8. -/
theorem witness_CycleEndIdlesAndHolds : Legal empty ∧ Legal full := by decide

/-- LEN at 0 and at 8. -/
theorem witness_StartupSendsIdent : Legal empty ∧ Legal full := by decide

/-- A position with a word that decodes, one without a word, and one with a word the decoder refuses. -/
theorem witness_StepRunsTheDecodedOperation :
    Legal dispatching ∧ opWord dispatching = some (.key8 0x45#_) ∧ decode (.key8 0x45#_) = .ok .keyFlush ∧
    opWord empty = none ∧ Legal empty ∧
    ({ empty with pp := .row 4 .lookup, res := 0b011#_ } : State).len.toNat ≤ Config.bufN ∧
    opWord { empty with pp := .row 4 .lookup, res := 0b011#_ } = some (.scanRes3 4#_ 0b011#_) ∧
    decode (.scanRes3 4#_ 0b011#_) = .error .resultRange := by decide

/-- A result word and a key word, placed in a state with LEN at 8. -/
theorem witness_PlacedWordRunsNext : Legal full ∧ decodeTableWord 8 0b100 = some (.keyLookup 0#_ 0#_) ∧
    decodeTableWord 8 0x43 = some .keyClear := by decide

/-- The settle position of the last row, with a key and without. -/
theorem witness_SettleHoldAfterAKey : Legal ({ full with pp := .row 4 .settle, res := 0b111#_ } : State) ∧
    resValid 0b111#_ = true ∧ resValid 0b000#_ = false := by decide

/-- The start of row 1, and of row 0 with a full buffer. -/
theorem witness_StepsOfARowAreRowStep : Legal betweenRows ∧ betweenRows.pp = .row 1 .scan ∧
    Legal ({ full with pp := .row 0 .scan } : State) := by decide

/-- The state after reset with the test values. -/
theorem witness_StepsFromPowerupAreStartup : Legal empty ∧ empty.pp = .powerup := by decide

/-- The start of row 0 with a full buffer. -/
theorem witness_ScanCycleReturnsToRowZero :
    Legal ({ full with pp := .row 0 .scan } : State) ∧
    ({ full with pp := .row 0 .scan } : State).pp = .row 0 .scan := by decide

/-- LEN at 0 and at 8. -/
theorem witness_ScanCycleSpacing : Legal empty ∧ Legal full := by decide

/-- The invariant holds at a dispatch, at a forced flush with LEN at 8, and between two rows, and a step from there
completes. -/
theorem witness_StepKeepsTheInvariant :
    Inv dispatching ∧ Inv forcing ∧ Inv betweenRows ∧ (∃ t, step dispatching = .next t) ∧
    (∃ t, step forcing = .next t) ∧ ∃ t, step betweenRows = .next t :=
  ⟨⟨rfl, by decide, rfl, rfl, rfl, rfl, rfl, rfl⟩, ⟨rfl, by decide, rfl, rfl, rfl, rfl⟩,
    ⟨rfl, by decide, rfl, rfl, rfl, trivial⟩, ⟨_, rfl⟩, ⟨_, rfl⟩, ⟨_, rfl⟩⟩

/-- The invariant holds at a dispatch. -/
theorem witness_InvariantStateNeverStops : Inv dispatching := witness_StepKeepsTheInvariant.1

/-- One group on the line, one code in the buffer, the invariant, and a step that completes. -/
theorem witness_StepKeepsTheSession : Inv betweenRows ∧ Session betweenRows ∧ ∃ t, step betweenRows = .next t := by
  refine ⟨witness_StepKeepsTheInvariant.2.2.1, ⟨?_, onLine, [[0x50#_]], witness_ListenerRecoversTheByte.1, ?_, ?_,
    by decide +kernel⟩, ⟨_, rfl⟩⟩
  · have h : contents betweenRows = [0x54#_] := by decide +kernel
    rw [h]
    simp only [List.mem_singleton, forall_eq]
    exact ⟨by decide, by decide⟩
  · simp only [List.mem_singleton, forall_eq]
    refine ⟨by decide, by decide, ?_⟩
    simp only [List.mem_singleton, forall_eq]
    exact ⟨by decide, by decide⟩
  · intro h
    cases h

/-- Operations that write complete, with frames on the line and without. -/
theorem witness_OperationsKeepTimeOrder : (∃ t, exec .flush full = .next t) ∧ Framed full [] ∧
    (∃ t, exec .cycleEnd betweenRows = .next t) ∧ Framed betweenRows onLine :=
  ⟨⟨_, rfl⟩, ⟨rfl, by simp [spaced]⟩, ⟨_, rfl⟩, witness_ListenerRecoversTheByte.1⟩

/-- Steps that write complete, with frames on the line and without. -/
theorem witness_StepsKeepTimeOrder : (∃ t, step forcing = .next t) ∧ Framed forcing [] ∧
    (∃ t, step betweenRows = .next t) ∧ Framed betweenRows onLine :=
  ⟨⟨_, rfl⟩, ⟨rfl, by simp [spaced]⟩, ⟨_, rfl⟩, witness_ListenerRecoversTheByte.1⟩

/-- An operation and a step that complete. -/
theorem witness_ParametersAreFixed :
    (∃ t, exec .cycleEnd full = .next t) ∧ ∃ t, step forcing = .next t := ⟨⟨_, rfl⟩, ⟨_, rfl⟩⟩

/-- Two states with different durations, slacks and instants. -/
theorem witness_BehaviourIsIndependentOfTiming :
    ({ full with now := 7, slackQueue := [3], par := { lab with uiTicks := 1, powerupTicks := 0 } } : State).timeless =
    full.timeless := by decide +kernel

/-- Two states with different transmitter latches. -/
theorem witness_TransmitterLatchesAreDead :
    ({ full with txK := 5#_, txData := 0xAA#_, flushIdx := 3#_ } : State).unlatched = full.unlatched := rfl

/-- The first and the last reserved row. -/
theorem witness_ReservedRowFaults :
    Legal empty ∧ Legal full ∧ Config.nRows ≤ (5#_ : RowNum).toNat ∧ Config.nRows ≤ (7#_ : RowNum).toNat := by decide

/-- The first and the last reserved key index. -/
theorem witness_ReservedKeyIndexFaults : Legal empty ∧ Legal full ∧
    Config.nRows * Config.nCols ≤ Config.nCols * (5#_ : RowNum).toNat + (0#_ : ColNum).toNat ∧
    Config.nRows * Config.nCols ≤ Config.nCols * (7#_ : RowNum).toNat + (3#_ : ColNum).toNat := by decide

/-- LEN at 9 and at 15; LEN at 8 and each reserved result. -/
theorem witness_IllegalStatesFault :
    Config.bufN < ({ empty with len := 9#_ } : State).len.toNat ∧
    Config.bufN < ({ empty with len := 15#_ } : State).len.toNat ∧
    ∀ x ∈ ([0b001#_, 0b010#_, 0b011#_] : List ScanRes),
      ({ full with res := x } : State).len.toNat ≤ Config.bufN ∧ ({ full with res := x } : State).res = x := by decide

/-- LEN at 8, and an operation with the last legal operands. -/
theorem witness_OnlyModelFaultsStop : Legal full ∧ (Instr.keyLookup 4#_ 3#_).wellFormed = true := by decide

end Sys2Proof.Tests
end

section
/-! Encodings: the edge vector and the priority encoder lane by lane (R75, R79, R125 to R127), and the KEY8 decoder
(R80). -/

namespace Sys2Proof.Machine

/-- Every column number names a column: the scanner has as many columns as its result's column field has values. -/
theorem colNum_toNat_lt (c : ColNum) : c.toNat < Config.nCols := c.isLt

/-- R75: a lane of the active vector is set when the column is at the active level. -/
theorem getLsbD_act (p : Params) (s : Cols) {c : Nat} (hc : c < Config.nCols) :
    (act p s).getLsbD c = (s.getLsbD c == p.colActiveLevel) := by
  cases hp : p.colActiveLevel with
  | false => simp [act, hp, hc]
  | true => simp [act, hp]

/-- R125, R126: a lane of the edge vector is set when the column is at the active level now and was not before. -/
theorem getLsbD_edges (p : Params) (sample prev : Cols) {c : Nat} (hc : c < Config.nCols) :
    (edges p sample prev).getLsbD c =
      (sample.getLsbD c == p.colActiveLevel && !(prev.getLsbD c == p.colActiveLevel)) := by
  simp only [edges, BitVec.getLsbD_and, BitVec.getLsbD_not, getLsbD_act p _ hc, hc, decide_true, Bool.true_and]

/-- The edges of the columns, read as the propositions of R126. -/
theorem getLsbD_edges_iff (p : Params) (sample prev : Cols) (c : ColNum) :
    (edges p sample prev).getLsbD c.toNat = true ↔
      sample.getLsbD c.toNat = p.colActiveLevel ∧ prev.getLsbD c.toNat ≠ p.colActiveLevel := by
  simp [getLsbD_edges p sample prev (colNum_toNat_lt c)]

/-- R79: without an edge the priority encoder answers 000. -/
theorem prio_of_no_edge {e : Cols} (h : ∀ c : ColNum, ¬ e.getLsbD c.toNat = true) : prio e = 0#_ := by
  have hnone : (List.range Config.nCols).find? e.getLsbD = none := by
    rw [List.find?_range_eq_none]
    intro i hi
    have hset := h (BitVec.ofNat _ i)
    rw [Config.toNat_colNum hi] at hset
    simpa using hset
  simp only [prio, hnone]

/-- R79, R127: the priority encoder reports the edge below which there is none. -/
theorem prio_of_lowest_edge {e : Cols} {c : ColNum} (hc : e.getLsbD c.toNat = true)
    (hlow : ∀ c' : ColNum, c' < c → ¬ e.getLsbD c'.toNat = true) : prio e = resOfCol c := by
  have hsome : (List.range Config.nCols).find? e.getLsbD = some c.toNat := by
    rw [List.find?_range_eq_some]
    refine ⟨hc, List.mem_range.mpr (colNum_toNat_lt c), fun j hj => ?_⟩
    have hfit := Config.toNat_colNum (Nat.lt_trans hj (colNum_toNat_lt c))
    have hclear := hlow (BitVec.ofNat _ j) (BitVec.lt_def.mpr (hfit.symm ▸ hj))
    rw [hfit] at hclear
    simpa using hclear
  simp only [prio, hsome, BitVec.ofNat_toNat, BitVec.setWidth_eq]

/-- Settles O5: a column rises exactly when its edge is set, and the priority encoder reports the lowest edge. -/
theorem priorityEncoderTakesLowestColumn : Obligations.PriorityEncoderTakesLowestColumn := by
  intro p sample prev
  simp only [← getLsbD_edges_iff]
  exact ⟨prio_of_no_edge, fun _ => prio_of_lowest_edge⟩

/-- R80: the KEY8 decoder's three tests in their order, as one equation. -/
theorem decode_key8 (key : Byte) :
    decode (.key8 key) =
      .ok (if key = flushCode then .keyFlush else if key = clearCode then .keyClear else .keyData key) := by
  by_cases hflush : key = flushCode
  · simp [decode, classify, hflush]
  by_cases hclear : key = clearCode
  · subst hclear
    rfl
  · simp [decode, classify, hflush, hclear]

/-- Settles O2: the bytes of R80's tests are `FLUSH_CODE` and `CLEAR_CODE`, and 000 has no valid bit. -/
theorem keyDecoderIsTotal : Obligations.KeyDecoderIsTotal :=
  ⟨decode_key8, fun _ => rfl⟩

end Sys2Proof.Machine
end

section
/-! The transmitter: the waveform of TXD over a trace (R17), the waveform of one frame (R101, R102), and what TX.FRAME
leaves behind (R101, R103). -/

namespace Sys2Proof.Machine

/-- The waveform of a run continues from what an earlier part of the run left. -/
theorem txdAt_append (init : Bool) (a b : List Event) (u : Nat) :
    txdAt init (a ++ b) u = txdAt (txdAt init a u) b u :=
  List.foldl_append

/-- An event later than u does not show at u. -/
theorem txdAt_singleton_of_lt (init : Bool) {e : Event} {u : Nat} (h : u < e.time) : txdAt init [e] u = init := by
  obtain ⟨time, signal⟩ := e
  cases signal with
  | txd v => exact if_neg (Nat.not_le.mpr h)
  | rowSel _ => rfl
  | led _ => rfl
  | sample _ => rfl

/-- Nothing that happens later than u shows at u. -/
theorem txdAt_of_lt (init : Bool) {tr : List Event} {u : Nat} (h : ∀ e ∈ tr, u < e.time) :
    txdAt init tr u = init := by
  induction tr with
  | nil => rfl
  | cons e tr ih =>
    obtain ⟨he, htr⟩ := List.forall_mem_cons.mp h
    rw [← List.singleton_append, txdAt_append, txdAt_singleton_of_lt init he, ih htr]

/-- A frame does not show before its start write. -/
theorem txdAt_frameEvents_of_lt (init : Bool) {t0 ui u : Nat} (d : Byte) (h : u < t0) :
    txdAt init (frameEvents t0 ui d) u = init :=
  txdAt_of_lt init fun _ he => Nat.lt_of_lt_of_le h (frameEvents_txd he).2.1

/-- Of a row of TXD writes the k-th shows from its instant until a later one of the row happens. -/
theorem txdAt_writes (init : Bool) (time : Nat → Nat) (level : Nat → Bool) {n k u : Nat} (hk : k < n)
    (hfrom : time k ≤ u) (huntil : ∀ j, k < j → j < n → u < time j) :
    txdAt init ((List.range n).map fun j => { time := time j, signal := .txd (level j) }) u = level k := by
  induction n with
  | zero => omega
  | succ n ih =>
    rw [List.range_succ, List.map_append, txdAt_append, List.map_singleton]
    rcases Nat.lt_succ_iff_lt_or_eq.mp hk with hlt | rfl
    · rw [txdAt_singleton_of_lt _ (huntil n hlt n.lt_succ_self)]
      exact ih hlt fun j hkj hjn => huntil j hkj (Nat.lt_succ_of_lt hjn)
    · exact if_pos hfrom

/-- R102: over the interval of phase k a frame shows bit k of its frame word. -/
theorem txdAt_frameEvents_phase (init : Bool) {t0 ui u k : Nat} (d : Byte) (hk : k < Config.phases)
    (hfrom : t0 + k * ui ≤ u) (huntil : u < t0 + (k + 1) * ui) :
    txdAt init (frameEvents t0 ui d) u = (frameWord d).getLsbD k :=
  txdAt_writes init _ _ hk hfrom fun _ hkj _ =>
    Nat.lt_of_lt_of_le huntil (Nat.add_le_add_left (Nat.mul_le_mul_right ui hkj) t0)

/-- R72: the stop phase has level 1. -/
theorem frameWord_stop (d : Byte) : (frameWord d).getLsbD (Config.phases - 1) = true := by simp [frameWord]

/-- R72: the start phase has level 0. -/
theorem frameWord_start (d : Byte) : (frameWord d).getLsbD 0 = false := by simp [frameWord]

/-- R103: from its stop phase on a frame shows 1. -/
theorem txdAt_frameEvents_stop (init : Bool) {t0 ui u : Nat} (d : Byte) (h : t0 + (Config.phases - 1) * ui ≤ u) :
    txdAt init (frameEvents t0 ui d) u = true := by
  rw [← frameWord_stop d]
  exact txdAt_writes init _ _ (by decide) h fun _ hlast hj => absurd hj (Nat.not_lt.mpr hlast)

/-- R72, R102: the frame word is the stop bit, the byte and the start bit. -/
theorem frameWord_eq_append (d : Byte) :
    frameWord d = (1#1 ++ d ++ 0#1 : BitVec (1 + Config.dataBits + 1)) := by
  refine BitVec.eq_of_getLsbD_eq fun i hi => ?_
  obtain _ | i := i
  · exact (frameWord_start d).trans (by simp [BitVec.getElem_append])
  rcases Nat.lt_or_ge i Config.dataBits with hdata | hstop
  · exact (frameWord_data d hdata).trans (by simp [BitVec.getLsbD_append, hdata])
  · obtain rfl : i = Config.dataBits := Nat.le_antisymm (Nat.le_of_lt_add_one (Nat.lt_of_succ_lt_succ hi)) hstop
    exact (frameWord_stop d).trans (by simp [BitVec.getLsbD_append])

/-- What TX.FRAME adds to the observation: the writes of one frame, after the slack (R101). -/
theorem txFrame_trace (s : State) (d : Byte) :
    (s.txFrame d).trace = s.trace ++ frameEvents (s.now + s.slackAt 0) s.par.uiTicks d := by rw [txFrame_eq]

/-- When TX.FRAME ends: ten unit intervals after its start write (R101). -/
theorem txFrame_now (s : State) (d : Byte) :
    (s.txFrame d).now = s.now + s.slackAt 0 + Config.phases * s.par.uiTicks := by rw [txFrame_eq]

/-- TX.FRAME touches neither LEN nor the scanner result, so a legal state stays legal. -/
theorem Legal.txFrame {s : State} (h : Legal s) (d : Byte) : Legal (s.txFrame d) := by
  rw [Legal, txFrame_len, (txFrame_sends s d).res]
  exact h

/-- Settles O12: at an instant of phase k the frame's own writes decide the level, whatever was written before. -/
theorem txFrameWaveform : Obligations.TxFrameWaveform := by
  intro d s hs
  refine ⟨frameWord_eq_append d, s.txFrame d, exec_txFrame hs d, fun init k u hfrom huntil => ?_⟩
  rw [txFrame_trace, txdAt_append]
  exact txdAt_frameEvents_phase _ d k.isLt hfrom huntil

/-- Settles O13: the ten writes are `frameEvents`. -/
theorem txFrameTakesTenPhases : Obligations.TxFrameTakesTenPhases := fun d s hs =>
  ⟨s.txFrame d, exec_txFrame hs d, txFrame_trace s d, txFrame_now s d, txFrame_txd s d⟩

/-- Settles O14: up to the second start write only the first frame's stop phase shows, and from there on the second
frame's start phase. -/
theorem framesKeepAStopGap : Obligations.FramesKeepAStopGap := by
  intro d e s hs
  refine ⟨s.txFrame d, (s.txFrame d).txFrame e, exec_txFrame hs d, exec_txFrame (hs.txFrame d) e, ?_, ?_, ?_⟩
  · have hphases : Config.phases * s.par.uiTicks = (Config.phases - 1) * s.par.uiTicks + s.par.uiTicks :=
      Nat.succ_mul _ _
    rw [txFrame_now, hphases, ← Nat.add_assoc]
  · intro init u hstop hnext
    rw [txFrame_trace, txdAt_append, txdAt_frameEvents_of_lt _ e hnext, txFrame_trace, txdAt_append]
    exact txdAt_frameEvents_stop _ d hstop
  · intro hui init
    have hpar : (s.txFrame d).par = s.par := (txFrame_sends s d).par
    rw [txFrame_trace, txdAt_append, txdAt_frameEvents_phase (k := 0) _ e (by decide) (by omega) (by rw [hpar]; omega)]
    exact frameWord_start e

end Sys2Proof.Machine
end

section
/-! The scanner: what a scanner result says about the edge vector (R127), and the scan of a row in a legal state
(R122 to R130). -/

namespace Sys2Proof.Machine

/-- R78: a result word that reports a column reports that column only. -/
theorem resOfCol_injective : Function.Injective resOfCol := by decide

/-- R78: 000 reports no column. -/
theorem resOfCol_ne_zero (c : ColNum) : resOfCol c ≠ 0#_ := by
  revert c
  decide

/-- R127: the priority encoder reports only a column whose edge is set. -/
theorem edge_of_prio_eq_resOfCol {e : Cols} {c : ColNum} (h : prio e = resOfCol c) : e.getLsbD c.toNat = true := by
  cases hfind : (List.range Config.nCols).find? e.getLsbD with
  | none =>
    simp only [prio, hfind] at h
    exact absurd h.symm (resOfCol_ne_zero c)
  | some n =>
    simp only [prio, hfind] at h
    obtain ⟨hedge, hn, -⟩ := List.find?_range_eq_some.mp hfind
    rw [← resOfCol_injective h, Config.toNat_colNum (List.mem_range.mp hn)]
    exact hedge

/-- R126: an edge is a column that is active now and was inactive before. -/
theorem getLsbD_edges_iff_act (p : Params) (sample prev : Cols) (c : ColNum) :
    (edges p sample prev).getLsbD c.toNat = true ↔
      (act p sample).getLsbD c.toNat = true ∧ (act p prev).getLsbD c.toNat = false := by
  simp [getLsbD_edges p sample prev (colNum_toNat_lt c), getLsbD_act p _ (colNum_toNat_lt c)]

/-- R130: a column that was active before has no edge. -/
theorem no_edge_of_active {p : Params} {sample prev : Cols} {c : ColNum}
    (hprev : (act p prev).getLsbD c.toNat = true) : (edges p sample prev).getLsbD c.toNat = false := by
  simp [← Bool.not_eq_true, getLsbD_edges_iff_act, hprev]

/-- R129, R130: a column that was active before is not reported. -/
theorem prio_edges_ne_of_active {p : Params} {sample prev : Cols} {c : ColNum}
    (hprev : (act p prev).getLsbD c.toNat = true) : prio (edges p sample prev) ≠ resOfCol c := fun hres =>
  ne_true_of_eq_false (no_edge_of_active hprev) (edge_of_prio_eq_resOfCol hres)

/-- Settles O18: the fields of the state that SCAN.ROW leaves are read off; of the snapshots only the written entry
differs. -/
theorem scanRowSamplesAndStores : Obligations.ScanRowSamplesAndStores := by
  intro r s hs
  refine ⟨_, (exec_scanRow hs _).trans (scanRow_eq r s), rfl, rfl, ?stored, ?others, rfl, rfl, rfl, rfl, rfl, rfl, rfl,
    rfl, rfl, rfl, rfl, rfl, rfl, rfl, rfl⟩
  case stored => exact Vector.getElem_set_self r.isLt
  case others => exact fun j hj => Vector.getElem_set_ne r.isLt j.isLt fun h => hj (Fin.ext h.symm)

/-- R126 to R128: of what SCAN.ROW does, the part that the next scan of the row depends on. -/
theorem scanRow_reports_and_stores (r : Fin Config.nRows) {s : State} (hs : Legal s) :
    ∃ t, exec (.scanRow (rowNum r)) s = .next t ∧ t.res = prio (edges s.par s.nextSample s.snap[r]) ∧
      t.snap[r] = s.nextSample ∧ t.par = s.par :=
  ⟨_, (exec_scanRow hs _).trans (scanRow_eq r s), rfl, Vector.getElem_set_self r.isLt, rfl⟩

/-- R129 to R131: the scan of a row whose snapshot has column c active does not report c, and a column it does report
has risen. -/
theorem scanRow_of_active_snapshot {r : Fin Config.nRows} {u : State} {c : ColNum} (hu : Legal u)
    (hprev : (act u.par u.snap[r]).getLsbD c.toNat = true) :
    ∃ v, exec (.scanRow (rowNum r)) u = .next v ∧ v.res ≠ resOfCol c ∧
      ∀ c', v.res = resOfCol c' →
        (act u.par u.nextSample).getLsbD c'.toNat = true ∧ (act u.par u.snap[r]).getLsbD c'.toNat = false := by
  obtain ⟨v, hv, hres, -⟩ := scanRow_reports_and_stores r hu
  refine ⟨v, hv, hres.trans_ne (prio_edges_ne_of_active hprev), fun c' hc' => ?_⟩
  exact (getLsbD_edges_iff_act _ _ _ c').mp (edge_of_prio_eq_resOfCol (hres.symm.trans hc'))

/-- Settles O19: the scan stores the column as active, and an edge asks for a column that was inactive. -/
theorem heldKeyFiresOnce : Obligations.HeldKeyFiresOnce := by
  intro r s c hs hnow hbefore
  have hedge := (getLsbD_edges_iff_act s.par s.nextSample s.snap[r] c).mpr ⟨hnow, hbefore⟩
  obtain ⟨t, ht, hres, hsnap, hpar⟩ := scanRow_reports_and_stores r hs
  refine ⟨hedge, t, ht, fun hlow => ?reported, fun u hu hupar husnap => ?held⟩
  case reported => exact hres.trans (prio_of_lowest_edge hedge fun c' hc' => ne_true_of_eq_false (hlow c' hc'))
  case held =>
    have hactive : (act u.par u.snap[r]).getLsbD c.toNat = true := by rwa [hupar, hpar, husnap, hsnap]
    exact ⟨no_edge_of_active hactive, scanRow_of_active_snapshot hu hactive⟩

/-- Settles O20: the other column's edge says that it is active in the sample, which the scan stores. -/
theorem simultaneousEdgesAreAbsorbed : Obligations.SimultaneousEdgesAreAbsorbed := by
  intro r s c c' hs _ hedge hedge' hlow
  obtain ⟨hnow', -⟩ := (getLsbD_edges_iff_act s.par s.nextSample s.snap[r] c').mp hedge'
  obtain ⟨t, ht, hres, hsnap, hpar⟩ := scanRow_reports_and_stores r hs
  have hstored : (act s.par t.snap[r]).getLsbD c'.toNat = true := by rwa [hsnap]
  refine ⟨t, ht, ?lowest, hstored, fun u hu hupar husnap => ?absorbed⟩
  case lowest => exact hres.trans (prio_of_lowest_edge hedge fun c0 hc0 => ne_true_of_eq_false (hlow c0 hc0))
  case absorbed =>
    obtain ⟨v, hv, hne, -⟩ := scanRow_of_active_snapshot (r := r) (c := c') hu (by rwa [hupar, hpar, husnap])
    exact ⟨v, hv, hne⟩

end Sys2Proof.Machine
end

section
/-! The controller: sequences of appends and flushes (R147, R150, R151, R157), the settle hold (R153), and the LED
writes of a row (R143, R154). -/

namespace Sys2Proof.Machine

/-- Settles O28: both operations are FLUSH in a legal state, and FLUSH tests LEN first. -/
theorem emptyFlushSendsNothing : Obligations.EmptyFlushSendsNothing := by
  rintro i s (rfl | rfl) hs hempty
  · exact (exec_flush hs).trans (flush_empty hempty)
  · exact (exec_keyFlush hs).trans (flush_empty hempty)

/-- The settle position runs no operation (R32, R153). -/
theorem step_settle {s : State} {r : Fin Config.nRows} (hs : Legal s) (hp : s.pp = .row r .settle) :
    step s = .next ((rowSettle s).setPp (.row r .restore)) := by
  have hpp : (rowSettle s).pp = .row r .settle := by rw [rowSettle_eq, hp]
  have hw : opWord s = none := by rw [opWord, hp]
  rw [step, guardState_of_legal hs, runPosition, hw]
  simp only [finish, before, hp, after, nextPP, hpp]

/-- Settles O44: the settle hold touches the time alone. -/
theorem settleHoldAfterAKey : Obligations.SettleHoldAfterAKey := by
  intro r s hs hp
  rw [step_settle hs hp, rowSettle_eq]
  rfl

/-- A sequence runs its first part, and then its second part where the first one ended. -/
theorem execSeq_append (a b : List Instr) (s : State) :
    execSeq (a ++ b) s = andThen (execSeq a s) (execSeq b) := by
  induction a generalizing s with
  | nil => rfl
  | cons i a ih =>
    rw [List.cons_append, execSeq, execSeq]
    cases exec i s with
    | next t => exact ih t
    | fault e => rfl
    | refused e => rfl

/-- An append with room in a legal state: the code stands behind the contents, and no line is written (R147). -/
theorem exec_keyData_room (k : Byte) {s : State} (hs : Legal s) (hroom : s.len.toNat < Config.bufN) :
    ∃ t, exec (.keyData k) s = .next t ∧ Legal t ∧ t.len.toNat = s.len.toNat + 1 ∧ contents t = contents s ++ [k] ∧
      t.trace = s.trace := by
  have hlen := Config.toNat_len_succ hroom
  exact ⟨_, (exec_keyData hs k).trans (keyData_room k hroom), ⟨hlen.trans_le hroom, hs.2⟩, hlen,
    contents_append k hroom, rfl⟩

/-- Appends that fit the buffer put their codes behind its contents, in order, and write no line (R147, R157). -/
theorem execSeq_keyData (codes : List Byte) {s : State} (hs : Legal s)
    (hroom : s.len.toNat + codes.length ≤ Config.bufN) :
    ∃ t, execSeq (codes.map .keyData) s = .next t ∧ Legal t ∧ contents t = contents s ++ codes ∧
      t.trace = s.trace := by
  induction codes generalizing s with
  | nil => exact ⟨s, rfl, hs, (List.append_nil _).symm, rfl⟩
  | cons k codes ih =>
    rw [List.length_cons] at hroom
    obtain ⟨u, hu, hulegal, hulen, hucontents, hutrace⟩ := exec_keyData_room k hs (by omega)
    obtain ⟨t, ht, hlegal, hcontents, htrace⟩ := ih hulegal (by omega)
    refine ⟨t, ?_, hlegal, ?_, htrace.trans hutrace⟩
    · rw [List.map_cons, execSeq, hu]
      exact ht
    · rw [hcontents, hucontents, List.append_assoc, List.singleton_append]

/-- Settles O30: the appends make the codes the contents of the buffer, and the flush sends its contents. -/
theorem appendedCodesGoOutInOrder : Obligations.AppendedCodesGoOutInOrder := by
  intro codes s hroom hs hempty
  obtain ⟨u, hu, hlegal, hcontents, htrace⟩ := execSeq_keyData codes hs (by simpa [hempty] using hroom)
  rw [contents_empty hempty, List.nil_append] at hcontents
  obtain ⟨t, bytes, ht, hsends, houtcome, -, hlen⟩ := flush_spec u hlegal.1
  have hbytes : bytes = if codes = [] then [] else codes ++ [endMarker] := by
    rw [hcontents] at houtcome
    exact congrArg Prod.fst houtcome
  obtain ⟨ext, hext, hsent, hlevels, -, -⟩ := hsends.events
  refine ⟨t, ext, ?_, by rw [hext, htrace], hsent.trans hbytes, by rw [hlevels, hbytes], hlen⟩
  rw [execSeq_append, hu, andThen_next, execSeq, exec_keyFlush hlegal, ht]
  rfl

@[simp] theorem ledWrites_append (a b : List Event) : ledWrites (a ++ b) = ledWrites a ++ ledWrites b := by
  simp [ledWrites]

/-- Frames write no LED. -/
@[simp] theorem ledWrites_lineEvents (ui : Nat) (frames : List (Nat × Byte)) :
    ledWrites (lineEvents ui frames) = [] := by
  refine List.filterMap_eq_nil_iff.mpr fun e he => ?_
  obtain ⟨f, -, hf⟩ := List.mem_flatMap.mp he
  obtain ⟨⟨v, hv⟩, -⟩ := frameEvents_txd hf
  rw [hv]

/-- The priority encoder gives no reserved result (R78, R82). -/
theorem legalRes_prio (e : Cols) : legalRes (prio e) = true := by
  revert e
  decide

/-- The scan of a row, after the row's first slack: when it samples, what it reports, and that it writes the row lines
and no LED (R120, R141). -/
theorem rowScan_spec (r : Fin Config.nRows) (s : State) :
    ∃ t ext, scanRow (rowNum r) s.slack = .next t ∧ t.trace = s.trace ++ ext ∧ ledWrites ext = [] ∧
      t.now = s.now + s.slackAt 0 + s.par.rowSettleTicks + s.slackAt 1 ∧ t.res = scanResult r s ∧ t.led = s.led ∧
      t.len = s.len ∧ t.par = s.par :=
  ⟨_, _, scanRow_eq r s.slack, rfl, rfl, by simp, rfl, rfl, rfl, rfl⟩

/-- The look-up of a row completes, shows the column of a key that fired and writes no LED otherwise, and keeps what the
rest of the row needs (R141 to R143, R145). -/
theorem rowLookup_spec (r : Fin Config.nRows) {s : State} (hres : legalRes s.res = true) :
    ∃ t ext, rowLookup (rowNum r) s = .next t ∧ t.trace = s.trace ++ ext ∧
      ledWrites ext = (if resValid s.res then [(s.now, ind s.par (resCol s.res))] else []) ∧
      t.len = s.len ∧ t.ledSave = s.ledSave := by
  cases hv : resValid s.res with
  | true =>
    obtain ⟨k, hk⟩ := keymapRead_isSome r (resCol s.res)
    refine ⟨showKey { s with key := k }, _, ?_, rfl, rfl, rfl, rfl⟩
    rw [rowLookup, if_pos hv, keyLookup_eq hk, andThen_next]
  | false =>
    have h0 : s.res = 0#_ := by simpa [legalRes, hv] using hres
    refine ⟨s, [], ?_, (List.append_nil _).symm, rfl, rfl, rfl⟩
    rw [rowLookup, if_neg (by simp [hv]), if_pos h0]

/-- Settles O36: the LED is saved between the scan and the look-up, and after the look-up it is written only to be
restored. -/
theorem rowStepShowsTheColumn : Obligations.RowStepShowsTheColumn := by
  intro r s hs
  obtain ⟨u, scanned, hscan, hutrace, hscanned, hunow, hures, huled, hulen, hupar⟩ := rowScan_spec r s
  have hlegal : legalRes u.saveLed.res = true := by
    rw [State.saveLed_res, hures]
    exact legalRes_prio _
  obtain ⟨v, shown, hlookup, hvtrace, hshown, hvlen, hvsave⟩ := rowLookup_spec r hlegal
  have hvled : v.ledSave = s.led := hvsave.trans huled
  have hvbound : v.len.toNat ≤ Config.bufN := by
    rw [hvlen, State.saveLed_len, hulen]
    exact hs.1
  obtain ⟨w, x, bytes, hdispatch, hforce, htail⟩ := rowTail_spec v hvbound
  obtain ⟨frames, htrace, -, -⟩ := htail.trace
  rw [hvtrace, State.saveLed_trace, hutrace, List.append_assoc, List.append_assoc, List.append_assoc] at htrace
  refine ⟨rowRestore (rowSettle x), _, ?run, htrace, htail.led.trans hvled, htail.ledSave.trans hvled, ?writes⟩
  case run =>
    rw [exec_rowStep hs, rowStep, hscan, andThen_next, hlookup, andThen_next, hdispatch, andThen_next, hforce,
      andThen_next]
  case writes =>
    rw [State.saveLed_res, State.saveLed_par, State.saveLed_now, hures, hupar, hunow] at hshown
    rw [ledWrites_append, hscanned, ledWrites_append, hshown, ledWrites_append, ledWrites_lineEvents, hvled]
    rfl

end Sys2Proof.Machine
end

section
/-! The invariant of the sequencer's positions (R22, R31, R133, R155, R163). Each lemma takes one kind of position: a
step from there completes, and the state it leads to meets the invariant. -/

namespace Sys2Proof.Machine

/-- No position allows more codes than the buffer holds (R31). -/
theorem lenBound_le (p : PP) : lenBound p ≤ Config.bufN := by
  cases p with
  | row r q =>
    cases q with
    | force => exact Nat.le_refl _
    | _ => exact Nat.sub_le _ _
  | _ => exact Nat.sub_le _ _

/-- The registers hold legal values in a state that meets the invariant. -/
theorem Inv.legal {s : State} (h : Inv s) : Legal s := ⟨h.lenBounded.trans (lenBound_le s.pp), h.resLegal⟩

/-- R78, R82: a legal result that reports no column is 000. -/
theorem res_eq_zero {res : ScanRes} (hl : legalRes res = true) (hv : resValid res = false) : res = 0#_ := by
  simpa [legalRes, hv] using hl

variable {s : State} {r : Fin Config.nRows}

/-- R158: the power-up hold. -/
theorem Inv.next_powerup (h : Inv s) (hp : s.pp = .powerup) : ∃ t, step s = .next t ∧ Inv t := by
  refine ⟨_, step_powerup h.legal hp, ?_⟩
  obtain ⟨htxd, hlen, hres, hrows, hleds, -⟩ := h
  simp only [hp, lenBound, rowLinesAt, ledLinesAt] at hlen hrows hleds
  exact ⟨htxd, hlen, hres, hrows, hleds, trivial⟩

/-- R158: a frame of IDENT. -/
theorem Inv.next_ident {i : Fin Config.identLen} (h : Inv s) (hp : s.pp = .ident i) :
    ∃ t, step s = .next t ∧ Inv t := by
  refine ⟨_, step_ident h.legal hp, ?_⟩
  obtain ⟨-, hlen, hres, hrows, hleds, -⟩ := h
  simp only [hp, lenBound, rowLinesAt, ledLinesAt] at hlen hrows hleds
  rw [txFrame_eq]
  split
  · exact ⟨rfl, hlen, hres, hrows, hleds, trivial⟩
  · exact ⟨rfl, hlen, hres, hrows, hleds, trivial⟩

/-- R120: the scan selects the row, and the priority encoder gives no reserved result. -/
theorem Inv.next_scan (h : Inv s) (hp : s.pp = .row r .scan) : ∃ t, step s = .next t ∧ Inv t := by
  refine ⟨_, step_scan h.legal hp (scanRow_eq r s.slack) rfl, ?_⟩
  obtain ⟨htxd, hlen, -, -, hleds, -⟩ := h
  simp only [hp, lenBound, ledLinesAt] at hlen hleds
  exact ⟨htxd, hlen, legalRes_prio _, rfl, hleds, trivial⟩

/-- R25: LED_SAVE takes what the LEDs show before a key, which is LED_OFF. -/
theorem Inv.next_save (h : Inv s) (hp : s.pp = .row r .save) : ∃ t, step s = .next t ∧ Inv t := by
  refine ⟨_, step_save h.legal hp, ?_⟩
  obtain ⟨htxd, hlen, hres, hrows, hleds, -⟩ := h
  simp only [hp, lenBound, rowLinesAt, ledLinesAt] at hlen hrows hleds
  exact ⟨htxd, hlen, hres, hrows, hleds, hleds⟩

/-- R142, R143, R145: a key that fired is in the key latch and its column shows; without one nothing changes. -/
theorem Inv.next_lookup (h : Inv s) (hp : s.pp = .row r .lookup) : ∃ t, step s = .next t ∧ Inv t := by
  have hs := h.legal
  obtain ⟨htxd, hlen, hres, hrows, hleds, hsaved⟩ := h
  simp only [hp, lenBound, rowLinesAt, ledLinesAt, latchesAt] at hlen hrows hleds hsaved
  cases hv : resValid s.res with
  | true =>
    obtain ⟨k, hk⟩ := keymapRead_isSome r (resCol s.res)
    refine ⟨_, step_lookup_key hs hp hv hk, htxd, hlen, hres, hrows, ?_, hv, hsaved, hk⟩
    exact (if_pos hv).symm
  | false =>
    refine ⟨_, step_lookup_none hs hp (res_eq_zero hres hv), htxd, hlen.trans (Nat.sub_le _ _), hres, hrows, ?_, hsaved⟩
    exact hleds.trans (if_neg (by simp [hv])).symm

/-- R144 to R149: the dispatch writes neither the lines of the row nor the LEDs, and may fill the buffer. -/
theorem Inv.next_dispatch (h : Inv s) (hp : s.pp = .row r .dispatch) : ∃ t, step s = .next t ∧ Inv t := by
  obtain ⟨u, bytes, hu, hsends, -, -, hulen⟩ := rowDispatch_spec s h.legal.1
  have hs := h.legal
  obtain ⟨htxd, -, hres, hrows, hleds, hlatches⟩ := h
  simp only [hp, rowLinesAt, ledLinesAt, latchesAt] at hrows hleds hlatches
  obtain ⟨hv, hsaved, -⟩ := hlatches
  refine ⟨_, step_dispatch hs hp hv hu hsends.pp, hsends.txd htxd, hulen, ?_, ?_, ?_, ?_⟩
  · exact (congrArg legalRes hsends.res).trans hres
  · simp [rowLinesAt, hsends.rowSel, hsends.par, hrows]
  · simp [ledLinesAt, hsends.led, hsends.res, hsends.par, hleds]
  · simp [latchesAt, hsends.ledSave, hsends.par, hsaved]

/-- R152, R163: the forced flush leaves room in the buffer. -/
theorem Inv.next_force (h : Inv s) (hp : s.pp = .row r .force) : ∃ t, step s = .next t ∧ Inv t := by
  obtain ⟨u, bytes, hu, hsends, -, -, hulen⟩ := rowForce_spec s h.legal.1
  have hs := h.legal
  obtain ⟨htxd, -, hres, hrows, hleds, hsaved⟩ := h
  simp only [hp, rowLinesAt, ledLinesAt, latchesAt] at hrows hleds hsaved
  refine ⟨_, step_force hs hp hu hsends.pp, hsends.txd htxd, Nat.le_sub_one_of_lt hulen, ?_, ?_, ?_, ?_⟩
  · exact (congrArg legalRes hsends.res).trans hres
  · simp [rowLinesAt, hsends.rowSel, hsends.par, hrows]
  · simp [ledLinesAt, hsends.led, hsends.res, hsends.par, hleds]
  · simp [latchesAt, hsends.ledSave, hsends.par, hsaved]

/-- R153: the settle hold. -/
theorem Inv.next_settle (h : Inv s) (hp : s.pp = .row r .settle) : ∃ t, step s = .next t ∧ Inv t := by
  refine ⟨_, step_settle h.legal hp, ?_⟩
  obtain ⟨htxd, hlen, hres, hrows, hleds, hsaved⟩ := h
  simp only [hp, lenBound, rowLinesAt, ledLinesAt, latchesAt] at hlen hrows hleds hsaved
  rw [rowSettle_eq]
  exact ⟨htxd, hlen, hres, hrows, hleds, hsaved⟩

/-- R154, R156: the restore turns the LEDs off, and the row's line stays selected until the next select (D24). -/
theorem Inv.next_restore (h : Inv s) (hp : s.pp = .row r .restore) : ∃ t, step s = .next t ∧ Inv t := by
  refine ⟨_, step_restore h.legal hp, ?_⟩
  obtain ⟨htxd, hlen, hres, hrows, -, hsaved⟩ := h
  simp only [hp, lenBound, rowLinesAt, latchesAt] at hlen hrows hsaved
  split
  · exact ⟨htxd, hlen, hres, hrows, hsaved, trivial⟩
  · next hlast =>
    have hr : r.val = Config.nRows - 1 := by omega
    rw [rowNum, hr] at hrows
    exact ⟨htxd, hlen, hres, hrows, hsaved, trivial⟩

/-- Everything CYCLE.END does in a legal state (R160). -/
theorem exec_cycleEnd (hs : Legal s) :
    exec .cycleEnd s = .next
      (((s.slack.writeLed (ledOff s.par)).writeRowSel (rowIdle s.par)).hold s.par.cycleDebounceTicks) := by
  rw [exec, execCycleEnd, guardState_of_legal hs]
  rfl

/-- R160, R161: the end of a cycle idles the rows and turns the LEDs off. -/
theorem Inv.next_cycleEnd (h : Inv s) (hp : s.pp = .cycleEnd) : ∃ t, step s = .next t ∧ Inv t := by
  refine ⟨_, step_cycleEnd h.legal hp (exec_cycleEnd h.legal) rfl, ?_⟩
  obtain ⟨htxd, hlen, hres, -, -, -⟩ := h
  simp only [hp, lenBound] at hlen
  exact ⟨htxd, hlen, hres, rfl, rfl, trivial⟩

/-- From a state that meets the invariant a step completes and leads to a state that meets it. -/
theorem Inv.next (h : Inv s) : ∃ t, step s = .next t ∧ Inv t := by
  cases hp : s.pp with
  | powerup => exact h.next_powerup hp
  | ident i => exact h.next_ident hp
  | row r q =>
    cases q with
    | scan => exact h.next_scan hp
    | save => exact h.next_save hp
    | lookup => exact h.next_lookup hp
    | dispatch => exact h.next_dispatch hp
    | force => exact h.next_force hp
    | settle => exact h.next_settle hp
    | restore => exact h.next_restore hp
  | cycleEnd => exact h.next_cycleEnd hp

/-- Settles O49: position by position, the one state that the step leads to meets the invariant. -/
theorem stepKeepsTheInvariant : Obligations.StepKeepsTheInvariant := by
  intro s t hs ht
  obtain ⟨u, hu, hinv⟩ := hs.next
  rw [hu] at ht
  cases ht
  exact hinv

/-- Settles O50: at every position the step completes. -/
theorem invariantStateNeverStops : Obligations.InvariantStateNeverStops := fun _ hs =>
  let ⟨t, ht, _⟩ := hs.next
  ⟨t, ht⟩

/-- R201: the reset state meets the invariant for all parameters and snapshots; the row lines and the LEDs are idle at
either polarity. -/
theorem inv_resetWith (p : Params) (snap : Vector Cols Config.nRows) : Inv (State.resetWith p snap) where
  txdIdle := rfl
  lenBounded := Nat.zero_le _
  resLegal := (by decide : legalRes 0#_ = true)
  rowLines := by cases hp : p.rowActiveLevel <;> simp [State.resetWith, rowLinesAt, rowIdle, hp]
  leds := by cases hp : p.ledOnLevel <;> simp [State.resetWith, ledLinesAt, ledOff, ledLines, hp]
  latches := trivial

/-- Settles O10: the reset state is `State.resetWith` at its reference. -/
theorem resetMeetsTheInvariant : Obligations.ResetMeetsTheInvariant :=
  ⟨inv_resetWith _ _, inv_resetWith⟩

end Sys2Proof.Machine
end

section
/-! The course of a run (R17, R36, R63, R101, R103): what every operation and every step does to time, to the
observation and to the frames on TXD, in one shape, `Runs`. -/

namespace Sys2Proof.Machine

/-- From s to t time does not go back, the new events are in order between the two instants, the new writes of TXD are
the given frames, whole and one after another, and neither the parameters nor the position change. -/
structure Runs (frames : List (Nat × Byte)) (s t : State) : Prop where
  par : t.par = s.par
  pp : t.pp = s.pp
  now : s.now ≤ t.now
  trace : ∃ ext, t.trace = s.trace ++ ext ∧ inOrder s.now t.now ext ∧ txdEvents ext = lineEvents s.par.uiTicks frames
  spaced : spaced s.now t.now s.par.uiTicks frames

/-- What writes nothing and does not turn time back. -/
theorem Runs.silent {s t : State} (hpar : t.par = s.par) (hpp : t.pp = s.pp) (hnow : s.now ≤ t.now)
    (htrace : t.trace = s.trace) : Runs [] s t where
  par := hpar
  pp := hpp
  now := hnow
  trace := ⟨[], by rw [htrace, List.append_nil], inOrder_nil _ _, rfl⟩
  spaced := spaced_nil _ _ _

theorem Runs.refl (s : State) : Runs [] s s := .silent rfl rfl (Nat.le_refl _) rfl

/-- A write or a sample that is no write of TXD. -/
theorem Runs.event {s t : State} {x : Signal} (hpar : t.par = s.par) (hpp : t.pp = s.pp) (hnow : t.now = s.now)
    (htrace : t.trace = s.trace ++ [{ time := s.now, signal := x }]) (hx : ∀ v, x ≠ .txd v) : Runs [] s t where
  par := hpar
  pp := hpp
  now := Nat.le_of_eq hnow.symm
  trace := by
    refine ⟨_, htrace, ⟨by simp [hnow], List.pairwise_singleton _ _⟩, ?_⟩
    cases x with
    | txd v => exact absurd rfl (hx v)
    | _ => rfl
  spaced := spaced_nil _ _ _

theorem Runs.trans {as bs : List (Nat × Byte)} {s t u : State} (h : Runs as s t) (k : Runs bs t u) :
    Runs (as ++ bs) s u where
  par := k.par.trans h.par
  pp := k.pp.trans h.pp
  now := h.now.trans k.now
  trace := by
    obtain ⟨x, hx, hxo, hxf⟩ := h.trace
    obtain ⟨y, hy, hyo, hyf⟩ := k.trace
    refine ⟨x ++ y, by rw [hy, hx, List.append_assoc], inOrder_append h.now k.now hxo hyo, ?_⟩
    rw [txdEvents_append, hxf, hyf, h.par, lineEvents_append]
  spaced := spaced_append h.now k.now h.spaced (h.par ▸ k.spaced)

/-- A transmission. -/
theorem Sends.runs {bytes : List Byte} {s t : State} (h : Sends bytes s t) :
    ∃ frames, Runs frames s t ∧ frames.map Prod.snd = bytes := by
  obtain ⟨frames, htrace, hbytes, hspaced⟩ := h.trace
  have hnow : s.now ≤ t.now := by
    have := h.now
    omega
  exact ⟨frames, ⟨h.par, h.pp, hnow, ⟨_, htrace, (spaced_events hspaced).2, txdEvents_lineEvents _ _⟩, hspaced⟩, hbytes⟩

/-- Whole frames on the line stay whole, and the new ones follow them. -/
theorem Runs.framed {as bs : List (Nat × Byte)} {s t : State} (h : Runs bs s t) (hs : Framed s as) :
    Framed t (as ++ bs) := by
  obtain ⟨ext, hext, -, hline⟩ := h.trace
  obtain ⟨hold, hspaced⟩ := hs
  refine ⟨?_, ?_⟩
  · rw [hext, txdEvents_append, hold, hline, h.par, lineEvents_append]
  · rw [h.par]
    exact spaced_append (Nat.zero_le _) h.now hspaced h.spaced

/-! ### The operations -/

theorem slack_runs (s : State) : Runs [] s s.slack := .silent rfl rfl (Nat.le_add_right _ _) rfl

theorem hold_runs (s : State) (d : Nat) : Runs [] s (s.hold d) := .silent rfl rfl (Nat.le_add_right _ _) rfl

theorem writeLed_runs (s : State) (v : Cols) : Runs [] s (s.writeLed v) := .event rfl rfl rfl rfl nofun

theorem writeRowSel_runs (s : State) (v : Rows) : Runs [] s (s.writeRowSel v) := .event rfl rfl rfl rfl nofun

/-- A row that is scanned is one of the grid's. -/
theorem scanRow_eq_next {r : RowNum} {s t : State} (h : scanRow r s = .next t) :
    ∃ hr : r.toNat < Config.nRows, t = scanSample r.toNat hr (scanSettle r s) := by
  by_cases hr : r.toNat < Config.nRows
  · rw [scanRow, dif_pos hr] at h
    cases h
    exact ⟨hr, rfl⟩
  · rw [scanRow, dif_neg hr] at h
    cases h

/-- R120 to R128: the scan writes the row lines, waits and samples. -/
theorem scanRow_runs {r : RowNum} {s t : State} (h : scanRow r s = .next t) : Runs [] s t := by
  obtain ⟨hr, rfl⟩ := scanRow_eq_next h
  have hsettle : Runs [] s (scanSettle r s) :=
    ((writeRowSel_runs s _).trans (hold_runs _ _)).trans (slack_runs _)
  exact hsettle.trans (.event rfl rfl rfl rfl nofun)

/-- R141, R143: the indicator and the slack. -/
theorem showKey_runs (s : State) : Runs [] s (showKey s) := (writeLed_runs s _).trans (slack_runs _)

/-- R153. -/
theorem rowSettle_runs (s : State) : Runs [] s (rowSettle s) := by
  unfold rowSettle
  split
  · exact hold_runs s _
  · exact .refl s

/-- R154. -/
theorem rowRestore_runs (s : State) : Runs [] s (rowRestore s) := (slack_runs s).trans (writeLed_runs _ _)

/-- R160. -/
theorem exec_cycleEnd_runs {s t : State} (h : exec .cycleEnd s = .next t) : Runs [] s t := by
  rw [exec_cycleEnd (legal_of_exec h)] at h
  cases h
  exact (((slack_runs s).trans (writeLed_runs _ _)).trans (writeRowSel_runs _ _)).trans (hold_runs _ _)

end Sys2Proof.Machine
end

section
/-! The session on the serial line (R158, R162): what a position sends is a byte of IDENT, a group with its end marker,
or nothing, and what a row appends to the buffer is a data code. -/

namespace Sys2Proof.Machine

/-- R158: after STARTUP all of IDENT is on the line. -/
theorem identSent_of_not_inStartup {p : PP} (h : inStartup p = false) : identSent p = identBytes.toList := by
  cases p <;> simp_all [inStartup, identSent]

/-- R158: the frame of a position adds the next byte of IDENT. -/
theorem identSent_identNext (i : Fin Config.identLen) :
    identSent (if h : i.val + 1 < Config.identLen then .ident ⟨i.val + 1, h⟩ else .row 0 .scan) =
      identSent (.ident i) ++ [identBytes[i]] := by
  revert i
  decide

variable {s u : State} {frames : List (Nat × Byte)} {p : PP}

/-- During STARTUP the session grows by bytes of IDENT, and the buffer stays as it is. -/
theorem Session.startup (hs : Session s) (hrun : Runs frames s u) (hstart : inStartup s.pp = true)
    (hident : identSent p = identSent s.pp ++ frames.map Prod.snd) (hcontents : contents u = contents s) :
    Session (u.setPp p) := by
  obtain ⟨hcodes, old, groups, hframed, -, hnone, hbytes⟩ := hs
  rw [hnone hstart, List.flatMap_nil, List.append_nil] at hbytes
  refine ⟨fun k hk => hcodes k (hcontents ▸ hk), old ++ frames, [], hrun.framed hframed, nofun, fun _ => rfl, ?_⟩
  rw [List.map_append, hbytes, List.flatMap_nil, List.append_nil]
  exact hident.symm

/-- After STARTUP the session grows by groups, each with its end marker. -/
theorem Session.groups (hs : Session s) (hrun : Runs frames s u) (hold : inStartup s.pp = false)
    (hnew : inStartup p = false) {new : List (List Byte)} (hgroups : ∀ g ∈ new, isGroup g)
    (hbytes : frames.map Prod.snd = new.flatMap fun g => g ++ [endMarker]) (hcodes : ∀ k ∈ contents u, isDataCode k) :
    Session (u.setPp p) := by
  obtain ⟨-, old, groups, hframed, hgroupsOld, -, hbytesOld⟩ := hs
  refine ⟨hcodes, old ++ frames, groups ++ new, hrun.framed hframed, fun g hg => ?_, fun h => ?_, ?_⟩
  · exact (List.mem_append.mp hg).elim (hgroupsOld g) (hgroups g)
  · exact absurd (hnew.symm.trans h) Bool.false_ne_true
  · rw [List.map_append, hbytesOld, hbytes, List.flatMap_append, ← List.append_assoc,
      identSent_of_not_inStartup hold]
    exact congrArg (· ++ _ ++ _) (identSent_of_not_inStartup hnew).symm

/-- A position of a row that sends nothing and leaves BUF and LEN alone. -/
theorem Session.quiet (hs : Session s) (hrun : Runs [] s u) (hold : inStartup s.pp = false)
    (hnew : inStartup p = false) (hbuf : u.buf = s.buf) (hlen : u.len = s.len) : Session (u.setPp p) :=
  hs.groups (new := []) hrun hold hnew nofun rfl fun k hk => hs.1 k (contents_congr hbuf hlen ▸ hk)

/-- R150, R151, R162: a flush sends nothing, or the contents as one group. -/
theorem flushOutcome_groups {held : List Byte} (hlen : held.length ≤ Config.bufN) (hcodes : ∀ k ∈ held, isDataCode k) :
    ∃ new : List (List Byte), (∀ g ∈ new, isGroup g) ∧
      (flushOutcome held).1 = new.flatMap fun g => g ++ [endMarker] := by
  by_cases hnil : held = []
  · exact ⟨[], nofun, by simp [flushOutcome, hnil]⟩
  · refine ⟨[held], ?_, by simp [flushOutcome, hnil]⟩
    rintro g hg
    rw [List.mem_singleton.mp hg]
    exact ⟨List.length_pos_iff.mpr hnil, hlen, hcodes⟩

/-- R144 to R149: so does the dispatch of a code of the key map, and what it leaves in the buffer are data codes. -/
theorem dispatchOutcome_groups {k : Byte} {held : List Byte} (hk : k ∈ keymap.toList)
    (hlen : held.length ≤ Config.bufN) (hcodes : ∀ x ∈ held, isDataCode x) :
    (∃ new : List (List Byte), (∀ g ∈ new, isGroup g) ∧
      (dispatchOutcome (some k) held).1 = new.flatMap fun g => g ++ [endMarker]) ∧
    ∀ x ∈ (dispatchOutcome (some k) held).2, isDataCode x := by
  cases hclass : classify k with
  | flush =>
    simp only [dispatchOutcome, hclass]
    exact ⟨flushOutcome_groups hlen hcodes, nofun⟩
  | clear =>
    simp only [dispatchOutcome, hclass]
    exact ⟨⟨[], nofun, rfl⟩, nofun⟩
  | data =>
    simp only [dispatchOutcome, hclass]
    refine ⟨⟨[], nofun, rfl⟩, fun x hx => ?_⟩
    split at hx
    · rcases List.mem_append.mp hx with hx | hx
      · exact hcodes x hx
      · rw [List.mem_singleton.mp hx]
        exact ⟨hk, hclass⟩
    · exact hcodes x hx

/-- R152, R162: so does the forced flush. -/
theorem forceOutcome_groups {held : List Byte} (hlen : held.length ≤ Config.bufN) (hcodes : ∀ x ∈ held, isDataCode x) :
    (∃ new : List (List Byte), (∀ g ∈ new, isGroup g) ∧
      (forceOutcome held).1 = new.flatMap fun g => g ++ [endMarker]) ∧
    ∀ x ∈ (forceOutcome held).2, isDataCode x := by
  unfold forceOutcome
  split
  · exact ⟨flushOutcome_groups hlen hcodes, nofun⟩
  · exact ⟨⟨[], nofun, rfl⟩, hcodes⟩

/-- What the key map holds are its codes. -/
theorem mem_keymap_of_keymapRead {i : Nat} {k : Byte} (h : keymapRead i = some k) : k ∈ keymap.toList := by
  obtain ⟨hi, rfl⟩ := Vector.getElem?_eq_some_iff.mp h
  exact Vector.mem_toList_iff.mpr (Vector.getElem_mem hi)

/-- R144, R162: the dispatch of the key that fired. -/
theorem Session.next_dispatch {r : Fin Config.nRows} {t : State} (hs : Session s) (hi : Inv s)
    (hp : s.pp = .row r .dispatch) (ht : step s = .next t) : Session t := by
  obtain ⟨u, bytes, hu, hsends, hout, -, -⟩ := rowDispatch_spec s hi.legal.1
  have hlatches := hi.latches
  simp only [latchesAt, hp] at hlatches
  obtain ⟨hv, -, hk⟩ := hlatches
  rw [step_dispatch hi.legal hp hv hu hsends.pp] at ht
  cases ht
  rw [if_pos hv] at hout
  obtain ⟨frames, hrun, hbytes⟩ := hsends.runs
  obtain ⟨⟨new, hgroups, hnew⟩, hcodes⟩ := dispatchOutcome_groups (mem_keymap_of_keymapRead hk)
    ((contents_length hi.legal.1).trans_le hi.legal.1) hs.1
  rw [← hout] at hnew hcodes
  exact hs.groups hrun (by rw [hp]; rfl) rfl hgroups (hbytes.trans hnew) hcodes

/-- R152, R162: the forced flush. -/
theorem Session.next_force {r : Fin Config.nRows} {t : State} (hs : Session s) (hl : Legal s)
    (hp : s.pp = .row r .force) (ht : step s = .next t) : Session t := by
  obtain ⟨u, bytes, hu, hsends, hout, -, -⟩ := rowForce_spec s hl.1
  rw [step_force hl hp hu hsends.pp] at ht
  cases ht
  obtain ⟨frames, hrun, hbytes⟩ := hsends.runs
  obtain ⟨⟨new, hgroups, hnew⟩, hcodes⟩ := forceOutcome_groups ((contents_length hl.1).trans_le hl.1) hs.1
  rw [← hout] at hnew hcodes
  exact hs.groups ((slack_runs s).trans hrun) (by rw [hp]; rfl) rfl hgroups (hbytes.trans hnew) hcodes

/-- R141 to R145: the look-up sends nothing. -/
theorem Session.next_lookup {r : Fin Config.nRows} {t : State} (hs : Session s) (hl : Legal s)
    (hp : s.pp = .row r .lookup) (ht : step s = .next t) : Session t := by
  have hold : inStartup s.pp = false := by rw [hp]; rfl
  cases hv : resValid s.res with
  | true =>
    obtain ⟨k, hk⟩ := keymapRead_isSome r (resCol s.res)
    rw [step_lookup_key hl hp hv hk] at ht
    cases ht
    have hkey : Runs [] s { s with key := k } := .silent rfl rfl (Nat.le_refl _) rfl
    exact hs.quiet (hkey.trans (showKey_runs _)) hold rfl rfl rfl
  | false =>
    rw [step_lookup_none hl hp (res_eq_zero hl.2 hv)] at ht
    cases ht
    exact hs.quiet (.refl s) hold rfl rfl rfl

/-- Settles O51: STARTUP sends IDENT, the dispatch and the forced flush send groups, every other position nothing. -/
theorem stepKeepsTheSession : Obligations.StepKeepsTheSession := by
  intro s t hi hs ht
  have hl := hi.legal
  cases hp : s.pp with
  | powerup =>
    rw [step_powerup hl hp] at ht
    cases ht
    exact hs.startup (hold_runs s _) (by rw [hp]; rfl) (by rw [hp]; rfl) rfl
  | ident i =>
    obtain ⟨frames, hrun, hbytes⟩ := (txFrame_sends s identBytes[i]).runs
    rw [step_ident hl hp] at ht
    cases ht
    refine hs.startup hrun (by rw [hp]; rfl) ?_ (contents_congr (txFrame_buf s _) (txFrame_len s _))
    rw [hbytes, hp]
    exact identSent_identNext i
  | row r q =>
    have hold : inStartup s.pp = false := by rw [hp]; rfl
    cases q with
    | scan =>
      have hscan := scanRow_eq r s.slack
      rw [step_scan hl hp hscan rfl] at ht
      cases ht
      exact hs.quiet ((slack_runs s).trans (scanRow_runs hscan)) hold rfl rfl rfl
    | save =>
      rw [step_save hl hp] at ht
      cases ht
      exact hs.quiet (.silent rfl rfl (Nat.le_refl _) rfl) hold rfl rfl rfl
    | lookup => exact hs.next_lookup hl hp ht
    | dispatch => exact hs.next_dispatch hi hp ht
    | force => exact hs.next_force hl hp ht
    | settle =>
      rw [step_settle hl hp] at ht
      cases ht
      have hrun := rowSettle_runs s
      rw [rowSettle_eq] at hrun ⊢
      exact hs.quiet hrun hold rfl rfl rfl
    | restore =>
      rw [step_restore hl hp] at ht
      cases ht
      exact hs.quiet (rowRestore_runs s) hold (by split <;> rfl) rfl rfl
  | cycleEnd =>
    have hend := exec_cycleEnd hl
    rw [step_cycleEnd hl hp hend rfl] at ht
    cases ht
    exact hs.quiet (exec_cycleEnd_runs hend) (by rw [hp]; rfl) rfl rfl rfl

/-- The session is empty in every reset state (R201). -/
theorem session_resetWith (p : Params) (snap : Vector Cols Config.nRows) : Session (State.resetWith p snap) :=
  ⟨nofun, [], [], ⟨rfl, spaced_nil _ _ _⟩, nofun, fun _ => rfl, rfl⟩

/-- Settles O11: the reset state is `State.resetWith` at its reference. -/
theorem resetStartsTheSession : Obligations.ResetStartsTheSession := ⟨session_resetWith _ _, session_resetWith⟩

end Sys2Proof.Machine
end

section
/-! FLUSH as one update of the state (R150): the frames of the contents and of the end marker, the flush's byte index,
and LEN. -/

namespace Sys2Proof.Machine

/-- The frames of a list of bytes, one after another (R94). -/
def State.sendAll (s : State) (bytes : List Byte) : State := bytes.foldl State.txFrame s

theorem State.sendAll_append (s : State) (a b : List Byte) : s.sendAll (a ++ b) = (s.sendAll a).sendAll b :=
  List.foldl_append

/-- A frame does not use the flush's byte index. -/
theorem txFrame_withFlushIdx (s : State) (i : Len) (d : Byte) :
    ({ s with flushIdx := i } : State).txFrame d = { s.txFrame d with flushIdx := i } := by
  rw [txFrame_eq, txFrame_eq]
  rfl

theorem sendAll_withFlushIdx (s : State) (i : Len) (bytes : List Byte) :
    ({ s with flushIdx := i } : State).sendAll bytes = { s.sendAll bytes with flushIdx := i } := by
  induction bytes generalizing s with
  | nil => rfl
  | cons d rest ih => exact (congrArg (State.sendAll · rest) (txFrame_withFlushIdx s i d)).trans (ih (s.txFrame d))

/-- R150: the frames of n entries of BUF from the byte index on. -/
theorem flushFrom_eq (n : Nat) (s : State) (h : s.flushIdx.toNat + n ≤ Config.bufN) :
    flushFrom n s = .next { s.sendAll ((s.buf.toList.drop s.flushIdx.toNat).take n) with
      flushIdx := s.flushIdx + BitVec.ofNat _ n } := by
  induction n generalizing s with
  | zero => simp [flushFrom, State.sendAll]
  | succ n ih =>
    have hi : s.flushIdx.toNat < Config.bufN := by omega
    have hnext : (s.flushIdx + 1#_).toNat = s.flushIdx.toNat + 1 := Config.toNat_len_succ hi
    have hidx : s.flushIdx + 1#_ + BitVec.ofNat _ n = s.flushIdx + BitVec.ofNat _ (n + 1) := by
      rw [BitVec.add_assoc, ← BitVec.ofNat_add, Nat.add_comm]
    have hbytes : (s.buf.toList.drop s.flushIdx.toNat).take (n + 1) =
        s.buf[s.flushIdx.toNat] :: (s.buf.toList.drop (s.flushIdx.toNat + 1)).take n := by
      rw [List.drop_eq_getElem_cons (by simpa using hi), List.take_succ_cons, Vector.getElem_toList]
    rw [flushFrom, bufRead_eq s _ hi]
    simp only
    rw [ih _ (by simp only [hnext]; omega), hbytes, sendAll_withFlushIdx]
    simp only [hnext, txFrame_buf, hidx]
    rfl

/-- The byte index does not run past the buffer (R184). -/
theorem flushFrom_overrun (n : Nat) (s : State) (hi : s.flushIdx.toNat ≤ Config.bufN)
    (h : Config.bufN < s.flushIdx.toNat + n) : flushFrom n s = .fault .bufIndexRange := by
  induction n generalizing s with
  | zero => omega
  | succ n ih =>
    rcases Nat.lt_or_eq_of_le hi with hlt | heq
    · have hnext : (s.flushIdx + 1#_).toNat = s.flushIdx.toNat + 1 := Config.toNat_len_succ hlt
      rw [flushFrom, bufRead_eq s _ hlt]
      exact ih _ (by simp only [hnext]; omega) (by simp only [hnext]; omega)
    · rw [flushFrom, State.bufRead, Vector.getElem?_eq_none (Nat.le_of_eq heq.symm)]

/-- FLUSH of a buffer that holds something, as one update (R150). -/
theorem flush_eq {s : State} (h0 : s.len ≠ 0#_) (h8 : s.len.toNat ≤ Config.bufN) :
    flush s = .next { s.sendAll (contents s ++ [endMarker]) with flushIdx := s.len, len := 0#_ } := by
  have hfrom := flushFrom_eq s.len.toNat { s with flushIdx := 0#_ } (by simpa using h8)
  rw [sendAll_withFlushIdx] at hfrom
  rw [flush, if_neg h0, hfrom, andThen_next, State.sendAll_append]
  simp [txFrame_withFlushIdx, contents, State.sendAll, State.setLen]

/-- FLUSH with LEN above BUF_N (R184). -/
theorem flush_overrun {s : State} (h : Config.bufN < s.len.toNat) : flush s = .fault .bufIndexRange := by
  have h0 : s.len ≠ 0#_ := fun e => by simp [e] at h
  rw [flush, if_neg h0, flushFrom_overrun _ _ (Nat.zero_le _) (by simpa using h), andThen_fault]

/-- R29, R166: a frame does not use the buffer. -/
theorem txFrame_withBuf (s : State) (b : Vector Byte Config.bufN) (d : Byte) :
    ({ s with buf := b } : State).txFrame d = { s.txFrame d with buf := b } := by
  rw [txFrame_eq, txFrame_eq]
  rfl

theorem sendAll_withBuf (s : State) (b : Vector Byte Config.bufN) (bytes : List Byte) :
    ({ s with buf := b } : State).sendAll bytes = { s.sendAll bytes with buf := b } := by
  induction bytes generalizing s with
  | nil => rfl
  | cons d rest ih => exact (congrArg (State.sendAll · rest) (txFrame_withBuf s b d)).trans (ih (s.txFrame d))

/-- R166: the contents do not depend on stale entries. -/
theorem contents_withBuf {s : State} {b : Vector Byte Config.bufN}
    (h : ∀ i : Fin Config.bufN, i.val < s.len.toNat → s.buf[i] = b[i]) :
    contents { s with buf := b } = contents s := by
  refine List.ext_getElem (by simp [contents]) fun i hi _ => ?_
  have hlt : i < s.len.toNat ∧ i < Config.bufN := by simpa [contents] using hi
  simpa [contents] using (h ⟨i, hlt.2⟩ hlt.1).symm

/-- R166: FLUSH does not depend on stale entries, and keeps them. -/
theorem flush_withBuf {s : State} {b : Vector Byte Config.bufN} (hlen : s.len.toNat ≤ Config.bufN)
    (h : ∀ i : Fin Config.bufN, i.val < s.len.toNat → s.buf[i] = b[i]) :
    ∃ t, flush s = .next t ∧ flush { s with buf := b } = .next { t with buf := b } := by
  by_cases h0 : s.len = 0#_
  · exact ⟨s, flush_empty h0, flush_empty h0⟩
  · refine ⟨_, flush_eq h0 hlen, (flush_eq (s := { s with buf := b }) h0 hlen).trans ?_⟩
    rw [contents_withBuf h, sendAll_withBuf]

/-- Settles O32: each of the three operations is FLUSH or does nothing, as LEN decides. -/
theorem staleEntriesAreNeverSent : Obligations.StaleEntriesAreNeverSent := by
  rintro i s s' hi hs ⟨hentries, hsame⟩
  obtain ⟨b, rfl⟩ : ∃ b, s' = { s with buf := b } := ⟨s'.buf, hsame.symm⟩
  have hs' : Legal { s with buf := b } := hs
  obtain ⟨t, ht, ht'⟩ := flush_withBuf hs.1 hentries
  rcases hi with rfl | rfl | rfl
  · exact ⟨t, _, (exec_flush hs).trans ht, (exec_flush hs').trans ht', rfl⟩
  · exact ⟨t, _, (exec_keyFlush hs).trans ht, (exec_keyFlush hs').trans ht', rfl⟩
  · rw [exec_forceFlush hs, exec_forceFlush hs']
    by_cases h8 : s.len.toNat = Config.bufN
    · rw [forceFlush_full h8, forceFlush_full (s := { s with buf := b }) h8]
      exact ⟨t, _, ht, ht', rfl⟩
    · rw [forceFlush_room h8, forceFlush_room (s := { s with buf := b }) h8]
      exact ⟨s, _, rfl, rfl, rfl⟩

end Sys2Proof.Machine
end

section
/-! What an operation does not see (R218, I6): a way to erase fields of a state such that no operation's outcome, erased
in the same way, depends on them. `Erasure` asks this of the shared operations of the state; every meaning and the step
follow from that once, for every erasure. -/

namespace Sys2Proof.Machine

/-- An outcome with its state erased. -/
def eraseOut (e : State → State) : Out → Out
  | .next s => .next (e s)
  | .fault f => .fault f
  | .refused f => .refused f

/-- An update does not see what e erases. -/
def Unseen (e f : State → State) : Prop := ∀ s, e (f (e s)) = e (f s)

/-- An operation does not see what e erases. -/
def Blind (e : State → State) (F : State → Out) : Prop := ∀ s, eraseOut e (F (e s)) = eraseOut e (F s)

variable {e f g : State → State} {F G : State → Out}

theorem Unseen.congr (h : Unseen e f) {s t : State} (hst : e s = e t) : e (f s) = e (f t) := by
  rw [← h s, hst, h t]

theorem Unseen.comp (hf : Unseen e f) (hg : Unseen e g) : Unseen e fun s => g (f s) := fun s => hg.congr (hf s)

theorem Unseen.next (h : Unseen e f) : Blind e fun s => .next (f s) := fun s => congrArg Host.Outcome.next (h s)

/-- States that agree but for what e erases lead to outcomes that do. -/
theorem Blind.congr (h : Blind e F) {s t : State} (hst : e s = e t) : eraseOut e (F s) = eraseOut e (F t) := by
  rw [← h s, hst, h t]

/-- From outcomes that agree but for what e erases on. -/
theorem Blind.andThen_congr (hG : Blind e G) {o o' : Out} (h : eraseOut e o = eraseOut e o') :
    eraseOut e (andThen o G) = eraseOut e (andThen o' G) := by
  cases o with
  | next s =>
    cases o' with
    | next t => exact hG.congr (Host.Outcome.next.inj h)
    | _ => cases h
  | fault x =>
    cases o' with
    | fault y => exact h
    | _ => cases h
  | refused x =>
    cases o' with
    | refused y => exact h
    | _ => cases h

/-- One operation after another. -/
theorem Blind.andThen (hF : Blind e F) (hG : Blind e G) : Blind e fun s => andThen (F s) G := fun s =>
  hG.andThen_congr (hF s)

/-- An operation after an update. -/
theorem Unseen.before (hf : Unseen e f) (hF : Blind e F) : Blind e fun s => F (f s) := fun s => hF.congr (hf s)

/-- A choice between two operations by something that e keeps. -/
theorem Blind.ite {c : State → Prop} [DecidablePred c] (hc : ∀ s, c (e s) ↔ c s) (hF : Blind e F) (hG : Blind e G) :
    Blind e fun s => if c s then F s else G s := by
  intro s
  simp only [hc]
  split
  · exact hF s
  · exact hG s

/-- What e erases is not seen by the shared operations of the state, and e keeps what the operations branch on. -/
structure Erasure (e : State → State) : Prop where
  len : ∀ s, (e s).len = s.len
  res : ∀ s, (e s).res = s.res
  key : ∀ s, (e s).key = s.key
  buf : ∀ s, (e s).buf = s.buf
  hold : ∀ d : Params → Nat, Unseen e fun s => s.hold (d s.par)
  slack : Unseen e State.slack
  selectRow : ∀ r, Unseen e fun s => s.writeRowSel (rowOne s.par r)
  idleRows : Unseen e fun s => s.writeRowSel (rowIdle s.par)
  showCol : ∀ c, Unseen e fun s => s.writeLed (ind s.par c)
  ledsOff : Unseen e fun s => s.writeLed (ledOff s.par)
  saveLed : Unseen e State.saveLed
  restoreLed : Unseen e fun s => s.writeLed s.ledSave
  sample : ∀ i h, Unseen e (scanSample i h)
  txFrame : ∀ d, Unseen e fun s => s.txFrame d
  setLen : ∀ n, Unseen e fun s => s.setLen n
  setKey : ∀ k, Unseen e fun s => { s with key := k }
  setBuf : ∀ b, Unseen e fun s => { s with buf := b }
  setFlushIdx : ∀ i, Unseen e fun s => { s with flushIdx := i }

namespace Erasure

variable (he : Erasure e)
include he

theorem contents (s : State) : contents (e s) = contents s := contents_congr (he.buf s) (he.len s)

theorem blind_guardState (hF : Blind e F) : Blind e fun s => guardState s F := by
  refine .ite (fun s => by rw [he.len]) (fun _ => rfl) (.ite (fun s => by rw [he.res]) hF fun _ => rfl)

/-- Holding for no time is doing nothing. -/
theorem unseen_id : Unseen e fun s => s := he.hold fun _ => 0

theorem unseen_sendAll (bytes : List Byte) : Unseen e fun s => s.sendAll bytes := by
  induction bytes with
  | nil => exact he.unseen_id
  | cons d rest ih => exact (he.txFrame d).comp ih

theorem blind_scanRow (r : RowNum) : Blind e (scanRow r) := by
  intro s
  by_cases hr : r.toNat < Config.nRows
  · rw [scanRow, scanRow, dif_pos hr, dif_pos hr]
    exact ((((he.selectRow r).comp (he.hold Params.rowSettleTicks)).comp he.slack).comp (he.sample _ hr)).next s
  · rw [scanRow, scanRow, dif_neg hr, dif_neg hr]

theorem blind_keyLookup (r : RowNum) (c : ColNum) : Blind e (keyLookup r c) := by
  intro s
  unfold keyLookup
  cases keymapRead (keyIndex r c) with
  | some k => exact (he.setKey k).next s
  | none => rfl

theorem blind_keyData (key : Byte) : Blind e (keyData key) := by
  intro s
  by_cases hroom : s.len.toNat < Config.bufN
  · have hroom' : (e s).len.toNat < Config.bufN := by rwa [he.len]
    have h := ((he.setBuf (s.buf.set s.len.toNat key hroom)).comp (he.setLen (s.len + 1#_))).next s
    rw [keyData_room key hroom, keyData_room key hroom']
    simp only [he.len, he.buf]
    exact h
  · have hfull : ¬ (e s).len.toNat < Config.bufN := by rwa [he.len]
    rw [keyData, keyData, if_neg hroom, if_neg hfull]
    exact he.unseen_id.next s

theorem blind_flush : Blind e flush := by
  intro s
  by_cases h0 : s.len = 0#_
  · rw [flush_empty h0, flush_empty (s := e s) (by rwa [he.len])]
    exact he.unseen_id.next s
  by_cases h8 : s.len.toNat ≤ Config.bufN
  · rw [flush_eq h0 h8, flush_eq (s := e s) (by rwa [he.len]) (by rwa [he.len]), he.contents, he.len]
    exact (((he.unseen_sendAll _).comp (he.setFlushIdx s.len)).comp (he.setLen 0#_)).next s
  · have h8' : Config.bufN < s.len.toNat := Nat.lt_of_not_le h8
    rw [flush_overrun h8', flush_overrun (s := e s) (by rwa [he.len])]

theorem blind_forceFlush : Blind e forceFlush :=
  .ite (fun s => by rw [he.len]) he.blind_flush he.unseen_id.next

theorem unseen_showKey : Unseen e showKey := by
  intro s
  rw [showKey, he.res]
  exact ((he.showCol (resCol s.res)).comp he.slack) s

theorem blind_rowLookup (r : RowNum) : Blind e (rowLookup r) := by
  intro s
  rw [rowLookup, rowLookup, he.res]
  split
  · exact ((he.blind_keyLookup r (resCol s.res)).andThen he.unseen_showKey.next) s
  · split
    · exact he.unseen_id.next s
    · rfl

theorem blind_rowDispatch : Blind e rowDispatch := by
  intro s
  rw [rowDispatch, rowDispatch, he.res, he.key]
  split
  · cases classify s.key with
    | flush => exact he.blind_flush s
    | clear => exact (he.setLen 0#_).next s
    | data => exact he.blind_keyData s.key s
  · exact he.unseen_id.next s

theorem blind_rowForce : Blind e rowForce := by
  have h : Blind e fun s => if s.len.toNat = Config.bufN then forceFlush s else .next s :=
    .ite (fun s => by rw [he.len]) he.blind_forceFlush he.unseen_id.next
  exact he.slack.before h

theorem unseen_rowSettle : Unseen e rowSettle := by
  intro s
  rw [rowSettle, rowSettle, he.res]
  split
  · exact he.hold (fun p => p.keySettleUi * p.uiTicks) s
  · exact he.unseen_id s

theorem unseen_rowRestore : Unseen e rowRestore := he.slack.comp he.restoreLed

theorem blind_rowStep (r : RowNum) : Blind e (rowStep r) :=
  (he.slack.before (he.blind_scanRow r)).andThen <|
    (he.saveLed.before (he.blind_rowLookup r)).andThen <|
      he.blind_rowDispatch.andThen <| he.blind_rowForce.andThen (he.unseen_rowSettle.comp he.unseen_rowRestore).next

/-- No operation sees what an erasure erases. -/
theorem blind_exec (i : Instr) : Blind e (exec i) := by
  cases i with
  | txFrame d => exact he.blind_guardState (he.txFrame d).next
  | scanRow r => exact he.blind_guardState (he.blind_scanRow r)
  | rowStep r => exact he.blind_guardState (he.blind_rowStep r)
  | keyNone => exact he.blind_guardState he.unseen_id.next
  | keyLookup r c => exact he.blind_guardState (he.blind_keyLookup r c)
  | keyFlush => exact he.blind_guardState he.blind_flush
  | keyClear => exact he.blind_guardState (he.setLen 0#_).next
  | keyData key => exact he.blind_guardState (he.blind_keyData key)
  | flush => exact he.blind_guardState he.blind_flush
  | forceFlush => exact he.blind_guardState he.blind_forceFlush
  | cycleEnd =>
    exact he.blind_guardState
      (((he.slack.comp he.ledsOff).comp he.idleRows).comp (he.hold Params.cycleDebounceTicks)).next
  | startup => exact he.blind_guardState ((he.hold Params.powerupTicks).comp (he.unseen_sendAll _)).next

/-! ### The step, for an erasure that keeps the position -/

variable (hpp : ∀ s, (e s).pp = s.pp) (hsetPp : ∀ p, Unseen e fun s => s.setPp p)
include hpp

theorem opWord_eq (s : State) : opWord (e s) = opWord s := by
  rw [opWord, opWord, hpp, he.res, he.key, he.len]

theorem unseen_before : Unseen e before := by
  intro s
  rw [before, before, hpp]
  cases s.pp with
  | powerup => exact he.hold Params.powerupTicks s
  | row r q =>
    cases q with
    | scan => exact he.slack s
    | save => exact he.saveLed s
    | force => exact he.slack s
    | settle => exact he.unseen_rowSettle s
    | restore => exact he.unseen_rowRestore s
    | lookup => exact he.unseen_id s
    | dispatch => exact he.unseen_id s
  | ident i => exact he.unseen_id s
  | cycleEnd => exact he.unseen_id s

theorem unseen_after : Unseen e after := by
  intro s
  rw [after, after, hpp, he.res]
  split
  · split
    · exact he.unseen_showKey s
    · exact he.unseen_id s
  all_goals exact he.unseen_id s

include hsetPp

theorem unseen_finish : Unseen e finish := by
  intro s
  have hnext : nextPP (e s) = nextPP s := by rw [nextPP, nextPP, hpp, he.res]
  rw [finish, finish, hnext]
  exact ((he.unseen_after hpp).comp (hsetPp (nextPP s))) s

/-- Neither does a step. -/
theorem blind_step : Blind e step := by
  refine he.blind_guardState fun s => ?_
  rw [runPosition, runPosition, he.opWord_eq hpp]
  cases opWord s with
  | none => exact ((he.unseen_before hpp).comp (he.unseen_finish hpp hsetPp)).next s
  | some w =>
    dsimp only
    cases decode w with
    | error x => rfl
    | ok i =>
      exact (((he.unseen_before hpp).before (he.blind_exec i)).andThen (he.unseen_finish hpp hsetPp).next) s

end Erasure

end Sys2Proof.Machine
end

section
/-! The erasures: timing (R218), the transmitter's latches (R32, R33) and the sequencer's position (R20). -/

namespace Sys2Proof.Machine

theorem timelessOut_eq : timelessOut = eraseOut State.timeless := by
  funext o
  cases o <;> rfl

theorem unlatchedOut_eq : unlatchedOut = eraseOut State.unlatched := by
  funext o
  cases o <;> rfl

/-- The writes of a frame without their instants depend on its byte alone. -/
theorem frameEvents_timeless (t0 ui : Nat) (d : Byte) :
    (frameEvents t0 ui d).map (fun e => { e with time := 0 }) = frameEvents 0 0 d := by
  simp [frameEvents, Function.comp_def]

/-- R218: no shared operation sees durations, slack lengths or instants. -/
theorem erasure_timeless : Erasure State.timeless where
  len _ := rfl
  res _ := rfl
  key _ := rfl
  buf _ := rfl
  hold d s := by simp [State.timeless, State.hold]
  slack s := by simp [State.timeless, State.slack]
  selectRow r s := by
    have hrow : rowOne s.timeless.par r = rowOne s.par r := rfl
    simp only [hrow]
    simp [State.timeless, State.writeRowSel, State.emit]
  idleRows s := by simp [State.timeless, State.writeRowSel, State.emit, rowIdle]
  showCol c s := by
    have hind : ind s.timeless.par c = ind s.par c := rfl
    simp only [hind]
    simp [State.timeless, State.writeLed, State.emit]
  ledsOff s := by simp [State.timeless, State.writeLed, State.emit, ledOff, ledLines]
  saveLed s := by simp [State.timeless, State.saveLed]
  restoreLed s := by simp [State.timeless, State.writeLed, State.emit]
  sample i h s := by
    have hsample : s.timeless.nextSample = s.nextSample := rfl
    have hedges : edges s.timeless.par s.nextSample s.timeless.snap[i] = edges s.par s.nextSample s.snap[i] := rfl
    rw [scanSample, State.takeSample, hsample, hedges]
    simp [State.timeless, scanSample, State.takeSample, State.emit]
  txFrame d s := by simp [State.timeless, txFrame_eq, frameEvents_timeless]
  setLen n s := by simp [State.timeless, State.setLen]
  setKey k s := by simp [State.timeless]
  setBuf b s := by simp [State.timeless]
  setFlushIdx i s := by simp [State.timeless]

/-- I6: no shared operation sees the transmitter's latches and the flush's byte index. -/
theorem erasure_unlatched : Erasure State.unlatched where
  len _ := rfl
  res _ := rfl
  key _ := rfl
  buf _ := rfl
  hold _ _ := rfl
  slack _ := rfl
  selectRow _ _ := rfl
  idleRows _ := rfl
  showCol _ _ := rfl
  ledsOff _ := rfl
  saveLed _ := rfl
  restoreLed _ := rfl
  sample _ _ _ := rfl
  txFrame d s := by
    simp only [txFrame_eq]
    rfl
  setLen _ _ := rfl
  setKey _ _ := rfl
  setBuf _ _ := rfl
  setFlushIdx _ _ := rfl

/-- R20: no shared operation sees the sequencer's position. -/
theorem erasure_setPp (p : PP) : Erasure (State.setPp · p) where
  len _ := rfl
  res _ := rfl
  key _ := rfl
  buf _ := rfl
  hold _ _ := rfl
  slack _ := rfl
  selectRow _ _ := rfl
  idleRows _ := rfl
  showCol _ _ := rfl
  ledsOff _ := rfl
  saveLed _ := rfl
  restoreLed _ := rfl
  sample _ _ _ := rfl
  txFrame d s := by
    simp only [txFrame_eq]
    rfl
  setLen _ _ := rfl
  setKey _ _ := rfl
  setBuf _ _ := rfl
  setFlushIdx _ _ := rfl

/-- Settles O55: timing is an erasure that keeps the position. -/
theorem behaviourIsIndependentOfTiming : Obligations.BehaviourIsIndependentOfTiming := by
  intro s s' h
  rw [timelessOut_eq]
  exact ⟨fun i => (erasure_timeless.blind_exec i).congr h,
    (erasure_timeless.blind_step (fun _ => rfl) fun p s => by simp [State.timeless, State.setPp]).congr h⟩

/-- Settles O56: so are the transmitter's latches. -/
theorem transmitterLatchesAreDead : Obligations.TransmitterLatchesAreDead := by
  intro s s' h
  rw [unlatchedOut_eq]
  exact ⟨fun i => (erasure_unlatched.blind_exec i).congr h,
    (erasure_unlatched.blind_step (fun _ => rfl) fun _ _ => rfl).congr h⟩

end Sys2Proof.Machine
end

section
/-! ROW.STEP (R141): what a row does up to its look-up, in one shape, `RowHead`; and the statements on whole rows, each
read off `RowHead` and `RowTail`. -/

namespace Sys2Proof.Machine

@[simp] theorem rowSelWrites_append (a b : List Event) : rowSelWrites (a ++ b) = rowSelWrites a ++ rowSelWrites b := by
  simp [rowSelWrites]

@[simp] theorem samplesOf_append (a b : List Event) : samplesOf (a ++ b) = samplesOf a ++ samplesOf b := by
  simp [samplesOf]

/-- What writes nothing but TXD writes no row line. -/
theorem rowSelWrites_of_txd {tr : List Event} (h : ∀ e ∈ tr, ∃ v, e.signal = .txd v) : rowSelWrites tr = [] := by
  refine List.filterMap_eq_nil_iff.mpr fun e he => ?_
  obtain ⟨v, hv⟩ := h e he
  rw [hv]

/-- What writes nothing but TXD takes no sample. -/
theorem samplesOf_of_txd {tr : List Event} (h : ∀ e ∈ tr, ∃ v, e.signal = .txd v) : samplesOf tr = [] := by
  refine List.filterMap_eq_nil_iff.mpr fun e he => ?_
  obtain ⟨v, hv⟩ := h e he
  rw [hv]

/-- The levels of a run's TXD writes are in its TXD events. -/
theorem txdLevels_txdEvents (tr : List Event) : txdLevels (txdEvents tr) = txdLevels tr := by
  induction tr with
  | nil => rfl
  | cons e tr ih =>
    obtain ⟨time, x⟩ := e
    cases x with
    | txd v => exact congrArg (v :: ·) ih
    | _ => exact ih

/-- Between s, where row r begins, and v the row was selected and its sample stored, the LED saved, and the buffer and
the transmitter are as they were. -/
structure RowSampled (r : Fin Config.nRows) (s v : State) : Prop where
  res : v.res = scanResult r s
  rowSel : v.rowSel = rowOne s.par (rowNum r)
  ledSave : v.ledSave = s.led
  snap : v.snap = s.snap.set r.val s.nextSample r.isLt
  buf : v.buf = s.buf
  len : v.len = s.len
  txd : v.txd = s.txd
  txK : v.txK = s.txK
  txData : v.txData = s.txData
  flushIdx : v.flushIdx = s.flushIdx
  colQueue : v.colQueue = s.colQueue.tail
  sampleIdx : v.sampleIdx = s.sampleIdx + 1

/-- From s, where row r begins, to v, where its look-up has ended: the row is selected and sampled once, and the key
that fired is in the key latch. -/
structure RowHead (r : Fin Config.nRows) (s v : State) : Prop extends RowSampled r s v where
  runs : Runs [] s v
  trace : ∃ ext, v.trace = s.trace ++ ext ∧ txdEvents ext = [] ∧
    rowSelWrites ext = [(s.now + s.slackAt 0, rowOne s.par (rowNum r))] ∧ samplesOf ext = [s.nextSample]
  time : ∀ n, v.now + slackSum v n =
    s.now + s.par.rowSettleTicks + slackSum s (n + 2 + if resValid (scanResult r s) then 1 else 0)
  fired : (if resValid v.res then some v.key else none) = firedKey r s
  key : firedKey r s = none → v.key = s.key

/-- The key that fires in a row whose result reports one (R142). -/
theorem firedKey_of_valid {r : Fin Config.nRows} {s : State} (h : resValid (scanResult r s) = true) :
    ∃ k, keymapRead (keyIndex (rowNum r) (resCol (scanResult r s))) = some k ∧ firedKey r s = some k := by
  obtain ⟨k, hk⟩ := keymapRead_isSome r (resCol (scanResult r s))
  exact ⟨k, hk, by rw [firedKey, if_pos h, hk]⟩

theorem firedKey_of_not_valid {r : Fin Config.nRows} {s : State} (h : resValid (scanResult r s) = false) :
    firedKey r s = none := if_neg (by simp [h])

/-- The state after the scan of a row, its first slack included (R120 to R128). -/
def rowScanned (r : Fin Config.nRows) (s : State) : State :=
  { s with
    rowSel := rowOne s.par (rowNum r)
    snap := s.snap.set r.val s.nextSample r.isLt
    res := scanResult r s
    now := s.slack.now + s.par.rowSettleTicks + s.slack.slackAt 0
    colQueue := s.colQueue.tail
    sampleIdx := s.sampleIdx + 1
    slackQueue := s.slackQueue.tail.tail
    slackIdx := s.slackIdx + 1 + 1
    trace := s.trace ++
      [{ time := s.now + s.slackAt 0, signal := .rowSel (rowOne s.par (rowNum r)) },
       { time := s.slack.now + s.par.rowSettleTicks + s.slack.slackAt 0, signal := .sample s.nextSample }] }

theorem scanRow_rowScanned (r : Fin Config.nRows) (s : State) :
    scanRow (rowNum r) s.slack = .next (rowScanned r s) := scanRow_eq r s.slack

/-- When the row has sampled, and the draws that are then to come. -/
theorem rowScanned_time (r : Fin Config.nRows) (s : State) (n : Nat) :
    (rowScanned r s).saveLed.now + slackSum (rowScanned r s).saveLed n =
      s.now + s.par.rowSettleTicks + slackSum s (n + 2) := by
  have hnow : (rowScanned r s).saveLed.now = s.now + s.slackAt 0 + s.par.rowSettleTicks + s.slack.slackAt 0 := rfl
  have hsum : slackSum (rowScanned r s).saveLed n = slackSum s.slack.slack n := rfl
  rw [hnow, hsum, slackSum_succ, slackSum_succ]
  omega

/-- The slack after the indicator is one draw. -/
theorem showKey_time (s : State) (k : Byte) (n : Nat) :
    (showKey { s with key := k }).now + slackSum (showKey { s with key := k }) n = s.now + slackSum s (n + 1) := by
  rw [slackSum_succ, ← Nat.add_assoc]
  rfl

theorem showKey_trace (s : State) (k : Byte) :
    (showKey { s with key := k }).trace =
      s.trace ++ [{ time := s.now, signal := .led (ind s.par (resCol s.res)) }] := rfl

theorem rowScanned_saved_runs (r : Fin Config.nRows) (s : State) : Runs [] s (rowScanned r s).saveLed :=
  ((slack_runs s).trans (scanRow_runs (scanRow_rowScanned r s))).trans (.silent rfl rfl (Nat.le_refl _) rfl)

/-- The look-up of a row in which a key fired (R142, R143). -/
theorem rowLookup_key {r : RowNum} {s : State} {k : Byte} (hv : resValid s.res = true)
    (hk : keymapRead (keyIndex r (resCol s.res)) = some k) :
    rowLookup r s = .next (showKey { s with key := k }) := by
  rw [rowLookup, if_pos hv, keyLookup_eq hk, andThen_next]

/-- The look-up of a row in which no key fired (R145). -/
theorem rowLookup_none {r : RowNum} {s : State} (hres : legalRes s.res = true) (hv : resValid s.res = false) :
    rowLookup r s = .next s := by
  rw [rowLookup, if_neg (by simp [hv]), if_pos (res_eq_zero hres hv)]

theorem rowScanned_sampled (r : Fin Config.nRows) (s : State) : RowSampled r s (rowScanned r s).saveLed :=
  ⟨rfl, rfl, rfl, rfl, rfl, rfl, rfl, rfl, rfl, rfl, rfl, rfl⟩

/-- R142, R143: the look-up of a key keeps all of that. -/
theorem RowSampled.showKey {r : Fin Config.nRows} {s v : State} (h : RowSampled r s v) (k : Byte) :
    RowSampled r s (showKey { v with key := k }) :=
  ⟨h.res, h.rowSel, h.ledSave, h.snap, h.buf, h.len, h.txd, h.txK, h.txData, h.flushIdx, h.colQueue, h.sampleIdx⟩

/-- The head of a row in which a key fires: the look-up goes on from u, where the row has sampled. -/
theorem rowHead_key {r : Fin Config.nRows} {s u : State} {k : Byte} (hu : u = (rowScanned r s).saveLed)
    (hv : resValid (scanResult r s) = true) (hk : firedKey r s = some k) :
    RowHead r s (showKey { u with key := k }) where
  toRowSampled := (hu ▸ rowScanned_sampled r s : RowSampled r s u).showKey k
  runs := by
    have hsampled : Runs [] s u := hu ▸ rowScanned_saved_runs r s
    have hkey : Runs [] u { u with key := k } := .silent rfl rfl (Nat.le_refl _) rfl
    exact (hsampled.trans hkey).trans (showKey_runs _)
  trace := by
    have hsampled := congrArg State.trace hu
    exact ⟨_, (showKey_trace u k).trans ((congrArg (· ++ _) hsampled).trans (List.append_assoc _ _ _)), rfl, rfl, rfl⟩
  time n := by
    rw [showKey_time, hu, rowScanned_time, if_pos hv, Nat.add_right_comm]
  fired := by
    have hres : u.res = scanResult r s := hu ▸ rfl
    exact (if_pos (hres ▸ hv)).trans hk.symm
  key h := by simp [hk] at h

/-- The head of a row in which no key fires. -/
theorem rowHead_none {r : Fin Config.nRows} {s : State} (hv : resValid (scanResult r s) = false) :
    RowHead r s (rowScanned r s).saveLed where
  toRowSampled := rowScanned_sampled r s
  runs := rowScanned_saved_runs r s
  trace := ⟨_, rfl, rfl, rfl, rfl⟩
  time n := by rw [rowScanned_time, if_neg (by simp [hv]), Nat.add_zero]
  fired := (if_neg (ne_true_of_eq_false hv)).trans (firedKey_of_not_valid hv).symm
  key _ := rfl

/-- A row completes its scan and its look-up in every state, and then its head is done. -/
theorem rowHead_spec (r : Fin Config.nRows) (s : State) :
    ∃ v, rowLookup (rowNum r) (rowScanned r s).saveLed = .next v ∧ RowHead r s v := by
  cases hv : resValid (scanResult r s) with
  | true =>
    obtain ⟨k, hread, hk⟩ := firedKey_of_valid hv
    exact ⟨_, rowLookup_key hv hread, rowHead_key rfl hv hk⟩
  | false => exact ⟨_, rowLookup_none (legalRes_prio _) hv, rowHead_none hv⟩

/-- ROW.STEP in a legal state: the head of the row, its dispatch, its forced flush and its tail. -/
theorem rowStep_spec (r : Fin Config.nRows) {s : State} (hs : Legal s) :
    ∃ v w x bytes, rowLookup (rowNum r) (rowScanned r s).saveLed = .next v ∧ rowDispatch v = .next w ∧
      rowForce w = .next x ∧ exec (.rowStep (rowNum r)) s = .next (rowRestore (rowSettle x)) ∧ RowHead r s v ∧
      RowTail bytes v (rowRestore (rowSettle x)) := by
  obtain ⟨v, hlookup, hhead⟩ := rowHead_spec r s
  obtain ⟨w, x, bytes, hdispatch, hforce, htail⟩ := rowTail_spec v (by rw [hhead.len]; exact hs.1)
  refine ⟨v, w, x, bytes, hlookup, hdispatch, hforce, ?_, hhead, htail⟩
  rw [exec_rowStep hs, rowStep, scanRow_rowScanned, andThen_next, hlookup, andThen_next, hdispatch, andThen_next,
    hforce, andThen_next]

/-- The same without the states in between. -/
theorem rowStep_parts (r : Fin Config.nRows) {s : State} (hs : Legal s) :
    ∃ v t bytes, exec (.rowStep (rowNum r)) s = .next t ∧ RowHead r s v ∧ RowTail bytes v t :=
  let ⟨v, _, _, bytes, _, _, _, ht, hhead, htail⟩ := rowStep_spec r hs
  ⟨v, _, bytes, ht, hhead, htail⟩

/-! ### What a whole row does -/

/-- The frames of a row and the write that restores the LED. -/
theorem RowTail.events {bytes : List Byte} {v t : State} (h : RowTail bytes v t) :
    ∃ ext, t.trace = v.trace ++ ext ∧ txdLevels ext = frameLevels bytes ∧ rowSelWrites ext = [] ∧
      samplesOf ext = [] := by
  obtain ⟨frames, htrace, hbytes, hspaced⟩ := h.trace
  obtain ⟨htxd, -⟩ := spaced_events hspaced
  refine ⟨_, htrace.trans (List.append_assoc _ _ _), ?_, ?_, ?_⟩
  · rw [txdLevels_append, txdLevels_lineEvents, hbytes]
    exact List.append_nil _
  · rw [rowSelWrites_append, rowSelWrites_of_txd htxd]
    rfl
  · rw [samplesOf_append, samplesOf_of_txd htxd]
    rfl

/-- The tail of a row runs on from its head: its frames, and the restore at its end. -/
theorem RowTail.runs {bytes : List Byte} {v t : State} (h : RowTail bytes v t) : ∃ frames, Runs frames v t := by
  obtain ⟨frames, htrace, -, hspaced⟩ := h.trace
  have hnow : v.now ≤ t.now := by
    have := h.now
    omega
  have hlast : inOrder t.now t.now [({ time := t.now, signal := .led v.ledSave } : Event)] :=
    ⟨by simp, List.pairwise_singleton _ _⟩
  refine ⟨frames, h.par, h.pp, hnow, ⟨_, htrace.trans (List.append_assoc _ _ _), ?_, ?_⟩, hspaced⟩
  · exact inOrder_append hnow (Nat.le_refl _) (spaced_events hspaced).2 hlast
  · rw [txdEvents_append, txdEvents_lineEvents]
    exact List.append_nil _

section

variable {r : Fin Config.nRows} {s v t : State} {bytes : List Byte}

theorem RowHead.outcome (h : RowHead r s v) (k : RowTail bytes v t) :
    (bytes, contents t) = rowOutcome (firedKey r s) (contents s) := by
  rw [k.outcome, h.fired, contents_congr h.buf h.len]

/-- R18: of a row's writes only its frames show on TXD. -/
theorem RowHead.events (h : RowHead r s v) (k : RowTail bytes v t) :
    ∃ ext, t.trace = s.trace ++ ext ∧ txdLevels ext = frameLevels bytes ∧
      rowSelWrites ext = [(s.now + s.slackAt 0, rowOne s.par (rowNum r))] ∧ samplesOf ext = [s.nextSample] := by
  obtain ⟨x, hx, hxtxd, hxrows, hxsamples⟩ := h.trace
  obtain ⟨y, hy, hytxd, hyrows, hysamples⟩ := k.events
  refine ⟨x ++ y, by rw [hy, hx, List.append_assoc], ?_, ?_, ?_⟩
  · rw [txdLevels_append, ← txdLevels_txdEvents x, hxtxd, hytxd]
    rfl
  · rw [rowSelWrites_append, hxrows, hyrows, List.append_nil]
  · rw [samplesOf_append, hxsamples, hysamples, List.append_nil]

end

/-- Settles O33: the head of the row finds the key that fired, and the tail sends and keeps what `rowOutcome` says. -/
theorem rowStepRefinesTheDispatch : Obligations.RowStepRefinesTheDispatch := by
  intro r s hs
  obtain ⟨v, t, bytes, ht, hhead, htail⟩ := rowStep_parts r hs
  obtain ⟨ext, hext, hlevels, -, -⟩ := hhead.events htail
  have hsent : sentBytes ext = bytes := by rw [sentBytes, hlevels, framesOf_frameLevels]
  exact ⟨t, ext, ht, hext, by rw [hsent, hhead.outcome htail], by rw [hsent, hlevels]⟩

/-- Settles O34: the head's time and draws, and then the tail's. -/
theorem rowStepDuration : Obligations.RowStepDuration := by
  intro r s hs
  obtain ⟨v, t, bytes, ht, hhead, htail⟩ := rowStep_parts r hs
  have hsent : (rowOutcome (firedKey r s) (contents s)).1 = bytes := by rw [← hhead.outcome htail]
  have htime := hhead.time (2 + bytes.length)
  have hcount : 2 + bytes.length + 2 + (if resValid (scanResult r s) then 1 else 0) =
      4 + (if resValid (scanResult r s) then 1 else 0) + bytes.length := by omega
  rw [hcount] at htime
  refine ⟨t, ht, ?_⟩
  rw [htail.now, hsent, hhead.res, hhead.runs.par]
  omega

/-- Settles O35: the head of the row selects, samples and stores; the tail does none of it. -/
theorem rowStepSelectsAndSamplesOnce : Obligations.RowStepSelectsAndSamplesOnce := by
  intro r s hs
  obtain ⟨v, t, bytes, ht, hhead, htail⟩ := rowStep_parts r hs
  obtain ⟨ext, hext, -, hrows, hsamples⟩ := hhead.events htail
  have hsnap : t.snap = s.snap.set r.val s.nextSample r.isLt := htail.snap.trans hhead.snap
  refine ⟨t, ext, ht, hext, hrows, htail.rowSel.trans hhead.rowSel, hsamples, ?stored, ?others,
    htail.pp.trans hhead.runs.pp, htail.par.trans hhead.runs.par, htail.colQueue.trans hhead.colQueue,
    htail.sampleIdx.trans hhead.sampleIdx⟩
  case stored =>
    rw [hsnap]
    exact Vector.getElem_set_self r.isLt
  case others =>
    intro j hj
    rw [hsnap]
    exact Vector.getElem_set_ne r.isLt j.isLt fun h => hj (Fin.ext h.symm)

/-- R147: the dispatch writes BUF only for a key that is appended. -/
theorem rowDispatch_buf {s t : State} (hlen : s.len.toNat ≤ Config.bufN)
    (hkey : resValid s.res = true → classify s.key ≠ .data) (ht : rowDispatch s = .next t) : t.buf = s.buf := by
  cases hv : resValid s.res with
  | false =>
    rw [rowDispatch, if_neg (by simp [hv])] at ht
    cases ht
    rfl
  | true =>
    rw [rowDispatch, if_pos hv] at ht
    cases hclass : classify s.key with
    | flush =>
      obtain ⟨u, -, hu, -, -, hbuf, -⟩ := flush_spec s hlen
      rw [hclass, hu] at ht
      cases ht
      exact hbuf
    | clear =>
      rw [hclass] at ht
      cases ht
      rfl
    | data => exact absurd hclass (hkey hv)

/-- Settles O37: the dispatch alone may write BUF, at LEN; the forced flush keeps its entries. -/
theorem rowStepFrame : Obligations.RowStepFrame := by
  intro r s t ht
  have hs := legal_of_exec ht
  obtain ⟨v, w, x, bytes, -, hdispatch, hforce, hx, hhead, htail⟩ := rowStep_spec r hs
  rw [hx] at ht
  cases ht
  have hvlen : v.len.toNat ≤ Config.bufN := by
    rw [hhead.len]
    exact hs.1
  refine ⟨fun j hj => ?others, fun hnone => ?noData, fun hquiet => htail.key.trans (hhead.key hquiet),
    fun hidle => htail.txd (hhead.txd.trans hidle)⟩
  case others =>
    rw [htail.buf j (by rwa [hhead.len]), hhead.buf]
  case noData =>
    have hkey : resValid v.res = true → classify v.key ≠ .data := fun hv =>
      hnone v.key (hhead.fired.symm.trans (if_pos hv))
    obtain ⟨w', bytes', hw', -, -, -, hwlen⟩ := rowDispatch_spec v hvlen
    obtain rfl : w' = w := Host.Outcome.next.inj (hw'.symm.trans hdispatch)
    obtain ⟨x', -, hx', -, -, hxbuf, -⟩ := rowForce_spec w' hwlen
    obtain rfl : x' = x := Host.Outcome.next.inj (hx'.symm.trans hforce)
    rw [rowSettle_eq]
    exact (hxbuf.trans (rowDispatch_buf hvlen hkey hdispatch)).trans hhead.buf

/-- Settles O38: without a key the dispatch does nothing, with room in the buffer the forced flush does nothing, and the
head of the row keeps what the statement names. -/
theorem quietRowChangesNoKeyState : Obligations.QuietRowChangesNoKeyState := by
  intro r s hs hroom hquiet
  obtain ⟨v, w, x, bytes, -, hdispatch, hforce, ht, hhead, htail⟩ := rowStep_spec r hs
  have hv : ¬ resValid v.res = true := by
    rw [hhead.res, hquiet]
    decide
  have hvroom : ¬ v.len.toNat = Config.bufN := by
    rw [hhead.len]
    exact Nat.ne_of_lt hroom
  rw [rowDispatch, if_neg hv] at hdispatch
  cases hdispatch
  have hforced : rowForce v = .next v.slack := if_neg hvroom
  obtain rfl : v.slack = x := Host.Outcome.next.inj (hforced.symm.trans hforce)
  have hsettle : rowSettle v.slack = v.slack := if_neg hv
  have hfired : firedKey r s = none := hhead.fired.symm.trans (if_neg hv)
  obtain ⟨ext, hext, hexttxd, -, -⟩ := hhead.trace
  rw [hsettle] at ht
  refine ⟨_, ht, hhead.ledSave, hhead.buf, hhead.len, hhead.txd, hhead.txK, hhead.txData, hhead.flushIdx,
    hhead.key hfired, ?_⟩
  have htrace : (rowRestore v.slack).trace = v.trace ++ [_] := rfl
  rw [htrace, hext, txdLevels_append, txdLevels_append, ← txdLevels_txdEvents ext, hexttxd]
  simp [txdLevels]

/-- Settles O39: a row ends with its forced flush behind it. -/
theorem rowStepLeavesRoom : Obligations.RowStepLeavesRoom := fun r _ hs =>
  let ⟨_, t, _, ht, _, htail⟩ := rowStep_parts r hs
  ⟨t, ht, htail.len⟩

end Sys2Proof.Machine
end

section
/-! The operations one by one, and what all of them share: which states and operands stop them (R82, R184), and the
course of the run (R36, R63). -/

namespace Sys2Proof.Machine

variable {s t : State}

/-! ### Faults -/

/-- R76, R86: a row operand below N_ROWS is a row's. -/
theorem exists_rowNum {r : RowNum} (h : r.toNat < Config.nRows) : ∃ r' : Fin Config.nRows, r = rowNum r' :=
  ⟨⟨r.toNat, h⟩, BitVec.eq_of_toNat_eq (rowNum_toNat ⟨r.toNat, h⟩).symm⟩

/-- Settles O57: the scan, with which ROW.STEP begins, tests the row. -/
theorem reservedRowFaults : Obligations.ReservedRowFaults := by
  intro r s hs hr
  refine ⟨(exec_scanRow hs r).trans (scanRow_reserved hr s), ?_⟩
  rw [exec_rowStep hs, rowStep, scanRow_reserved hr, andThen_fault]

/-- R184: the key map has no key at an index above 19. -/
theorem keyLookup_reserved {r : RowNum} {c : ColNum}
    (h : Config.nRows * Config.nCols ≤ Config.nCols * r.toNat + c.toNat) (s : State) :
    keyLookup r c s = .fault .keyIndexRange := by
  rw [keyLookup, keymapRead, keyIndex, Vector.getElem?_eq_none h]

/-- Settles O58: the look-up finds no key there. -/
theorem reservedKeyIndexFaults : Obligations.ReservedKeyIndexFaults := fun r c s hs h =>
  (exec_keyLookup hs r c).trans (keyLookup_reserved h s)

/-- R184: every operation is behind the guard. -/
theorem exec_guarded (i : Instr) : ∃ f, ∀ s, exec i s = guardState s f := by
  cases i with
  | txFrame d => exact ⟨fun s => .next (s.txFrame d), fun _ => rfl⟩
  | scanRow r => exact ⟨scanRow r, fun _ => rfl⟩
  | rowStep r => exact ⟨rowStep r, fun _ => rfl⟩
  | keyNone => exact ⟨.next, fun _ => rfl⟩
  | keyLookup r c => exact ⟨keyLookup r c, fun _ => rfl⟩
  | keyFlush => exact ⟨flush, fun _ => rfl⟩
  | keyClear => exact ⟨fun s => .next (s.setLen 0#_), fun _ => rfl⟩
  | keyData key => exact ⟨keyData key, fun _ => rfl⟩
  | flush => exact ⟨flush, fun _ => rfl⟩
  | forceFlush => exact ⟨forceFlush, fun _ => rfl⟩
  | cycleEnd => exact ⟨_, fun _ => rfl⟩
  | startup => exact ⟨_, fun _ => rfl⟩

/-- R184: a guard that stops stops every operation and the step. -/
theorem stops_of_guard {x : Fault} (h : ∀ f, guardState s f = .fault x) :
    (∀ i : Instr, exec i s = .fault x) ∧ step s = .fault x := by
  refine ⟨fun i => ?_, h _⟩
  obtain ⟨f, hf⟩ := exec_guarded i
  exact (hf s).trans (h f)

/-- R78, R82: 001, 010 and 011 are the reserved results. -/
theorem legalRes_eq_false_iff (res : ScanRes) :
    legalRes res = false ↔ res = 0b001#_ ∨ res = 0b010#_ ∨ res = 0b011#_ := by
  revert res
  decide

/-- Settles O59: the guard tests LEN first, and then the result. -/
theorem illegalStatesFault : Obligations.IllegalStatesFault := fun _ =>
  ⟨fun hlen => stops_of_guard (guardState_of_lt hlen), fun hlen hres =>
    stops_of_guard (guardState_of_reserved hlen ((legalRes_eq_false_iff _).mpr hres))⟩

/-! ### The key operations -/

theorem exec_keyNone (hs : Legal s) : exec .keyNone s = .next s := by
  rw [exec, execKeyNone, guardState_of_legal hs]

theorem exec_keyClear (hs : Legal s) : exec .keyClear s = .next (s.setLen 0#_) := by
  rw [exec, execKeyClear, guardState_of_legal hs]

/-- Settles O23: KEY.NONE is the identity behind the guard. -/
theorem keyNoneChangesNothing : Obligations.KeyNoneChangesNothing := fun _ => exec_keyNone

/-- Settles O26: KEY.CLEAR sets LEN. -/
theorem keyClearEmptiesTheBuffer : Obligations.KeyClearEmptiesTheBuffer := fun _ => exec_keyClear

/-- Settles O25: a full buffer drops the key. -/
theorem keyDataDropsWhenFull : Obligations.KeyDataDropsWhenFull := fun key _ hs hfull =>
  (exec_keyData hs key).trans (keyData_full key hfull)

/-- Settles O24: the append as one update. -/
theorem keyDataAppends : Obligations.KeyDataAppends := by
  intro key s hs hroom
  refine ⟨_, (exec_keyData hs key).trans (keyData_room key hroom), ?_, Config.toNat_len_succ hroom, fun j hj => ?_, rfl,
    contents_append key hroom⟩
  · simp [hroom]
  · exact Vector.getElem_set_ne hroom j.isLt hj.symm

/-- R50, R73: the spec's string and the model's map agree, and every position of the grid is inside. -/
theorem keymap_eq_codes :
    keymap.toList = "P123T456M789BC0EOSLA".toList.map fun x => BitVec.ofNat Config.dataBits x.toNat := by
  decide

/-- R52, R80: the classes of the keys of the grid. -/
theorem classify_keymap (r : Fin Config.nRows) (c : ColNum) :
    ∀ k ∈ keymap[Config.nCols * r.val + c.toNat]?,
      (classify k = .flush ↔ r = 3 ∧ c = 3#_) ∧ (classify k = .clear ↔ r = 3 ∧ c = 1#_) := by
  revert r c
  decide

/-- R50: no code stands at two positions of the grid. -/
theorem keymap_injective (r r' : Fin Config.nRows) (c c' : ColNum)
    (h : keymap[Config.nCols * r.val + c.toNat]? = keymap[Config.nCols * r'.val + c'.toNat]?) : r' = r ∧ c' = c := by
  revert r r' c c'
  decide

/-- Settles O22: every position of the grid has a key, and the key map is the spec's string. -/
theorem keyLookupReadsTheMap : Obligations.KeyLookupReadsTheMap := by
  intro r c s hs codes
  obtain ⟨k, hk⟩ := keymapRead_isSome r c
  have hmap := (keymapRead_eq r c).symm.trans hk
  obtain ⟨hflush, hclear⟩ := classify_keymap r c k hmap
  refine ⟨k, ?_, (exec_keyLookup hs _ c).trans (keyLookup_eq hk s), hflush, hclear, fun r' c' h =>
    keymap_injective r r' c c' (hmap.trans h.symm)⟩
  rw [show codes = keymap.toList from keymap_eq_codes.symm]
  simpa using hmap

/-! ### The flushes -/

/-- Settles O27: both operations are FLUSH in a legal state. -/
theorem flushSendsTheBuffer : Obligations.FlushSendsTheBuffer := by
  intro i s hi hs hpos
  obtain ⟨t, ht, hsends, hlen, -, -⟩ := flush_sends s hpos hs.1
  obtain ⟨ext, hext, hsent, hlevels, honly, -⟩ := hsends.events
  have hexec : exec i s = .next t := by
    rcases hi with rfl | rfl
    · exact (exec_flush hs).trans ht
    · exact (exec_keyFlush hs).trans ht
  have hcount : (contents s ++ [endMarker]).length = s.len.toNat + 1 := by
    rw [List.length_append, contents_length hs.1, List.length_singleton]
  exact ⟨t, ext, hexec, hext, hsent, hlevels, honly, hlen, hcount ▸ hsends.now⟩

/-- The contents of a full buffer are its entries. -/
theorem contents_of_full (h : s.len.toNat = Config.bufN) : contents s = s.buf.toList := by
  rw [contents, h]
  exact List.take_of_length_le (by simp)

/-- Settles O29: FORCE.FLUSH is FLUSH of a full buffer, or nothing. -/
theorem forceFlushOnlyWhenFull : Obligations.ForceFlushOnlyWhenFull := by
  refine fun s hs => ⟨fun hfull => ?_, fun hroom => ?_⟩
  · obtain ⟨t, ht, hsends, hlen, -, -⟩ := flush_sends s (by rw [hfull]; decide) hs.1
    obtain ⟨ext, hext, hsent, hlevels, honly, -⟩ := hsends.events
    rw [contents_of_full hfull] at hsent hlevels
    refine ⟨t, ext, ?_, hext, hsent, hlevels, honly, hlen⟩
    rw [exec_forceFlush hs, forceFlush_full hfull, ht]
  · rw [exec_forceFlush hs, forceFlush_room (Nat.ne_of_lt hroom)]

/-! ### CYCLE.END and STARTUP -/

/-- Settles O40: `exec_cycleEnd` is one update after another. -/
theorem cycleEndIdlesAndHolds : Obligations.CycleEndIdlesAndHolds := fun s hs =>
  ⟨_, exec_cycleEnd hs, rfl, rfl, rfl, List.append_assoc s.trace _ _, rfl⟩

theorem exec_startup (hs : Legal s) : exec .startup s = .next (sendIdent (s.hold s.par.powerupTicks)) := by
  rw [exec, execStartup, guardState_of_legal hs]

/-- Settles O41: the hold, and then the frames of IDENT. -/
theorem startupSendsIdent : Obligations.StartupSendsIdent := by
  intro s hs
  obtain ⟨hsends, hlen, hbuf, -⟩ := sendIdent_sends (s.hold s.par.powerupTicks)
  obtain ⟨ext, hext, hsent, hlevels, honly, horder⟩ := hsends.events
  exact ⟨_, ext, exec_startup hs, hext, hsent, hlevels, honly, fun e he => (horder.1 e he).1, hsends.now, hsends.rowSel,
    hsends.led, hsends.snap, hbuf, hlen⟩

end Sys2Proof.Machine
end

section
/-! The decoder (R78, R80, R82), and what operations and steps do in every state: they complete or fault (R184), they
keep the parameters (R19), and they go on with the run (R36, R63). -/

namespace Sys2Proof.Machine

/-! ### The decoder -/

/-- R82, R88: the decoder refuses a scanner result exactly where it is reserved. -/
theorem decode_scanRes3 (row : RowNum) (res : ScanRes) :
    decode (.scanRes3 row res) =
      if legalRes res then .ok (if resValid res then .keyLookup row (resCol res) else .keyNone)
      else .error .resultRange := by
  rw [decode]
  cases hv : resValid res with
  | true => simp [legalRes, hv]
  | false => by_cases h0 : res = 0#_ <;> simp [legalRes, hv, h0]

/-- R82, R85 to R89: the words the decoder refuses. -/
theorem decode_eq_error_iff (w : OpWord) (x : DecodeError) :
    decode w = .error x ↔ ∃ row res, w = .scanRes3 row res ∧ legalRes res = false := by
  obtain rfl : x = .resultRange := rfl
  cases w with
  | scanRes3 row res =>
    rw [decode_scanRes3]
    cases h : legalRes res <;> simp [h]
  | key8 key => simp [decode_key8]
  | opR3 unit r => cases unit <;> simp [decode]
  | seq sel => cases sel <;> simp [decode]
  | opD8 d => simp [decode]

/-- R80, R82: a word with a legal row decodes to a well-formed operation. -/
theorem wellFormed_of_decode {w : OpWord} {i : Instr} (h : decode w = .ok i)
    (hrow : ∀ unit r, w = .opR3 unit r → legalRow r = true)
    (hres : ∀ row res, w = .scanRes3 row res → legalRow row = true) : i.wellFormed = true := by
  cases w with
  | opD8 d =>
    cases h
    rfl
  | opR3 unit r =>
    cases unit <;> cases h
    all_goals exact hrow _ r rfl
  | scanRes3 row res =>
    rw [decode_scanRes3] at h
    split at h
    · cases hv : resValid res <;> simp only [hv] at h <;> cases h
      · rfl
      · exact hres row res rfl
    · cases h
  | key8 key =>
    cases hclass : classify key <;> simp only [decode, hclass] at h <;> cases h
    · rfl
    · rfl
    · simp [Instr.wellFormed, hclass]
  | seq sel =>
    cases sel <;> cases h
    all_goals rfl

/-- Settles O4: the refused words are the reserved results, and the row is the one operand that the decoder passes on
unchecked. -/
theorem decoderRefusesOnlyReservedResults : Obligations.DecoderRefusesOnlyReservedResults := by
  intro w
  refine ⟨?_, fun i => wellFormed_of_decode⟩
  rw [decode_eq_error_iff]
  simp only [legalRes_eq_false_iff]

/-- Settles O3: the round trip of each operation's own word. -/
theorem decodeEncodeRoundTrip : Obligations.DecodeEncodeRoundTrip := by
  intro i
  cases i with
  | txFrame d => exact Laws.RoundTrip.txFrame d
  | scanRow r => exact Laws.RoundTrip.scanRow r
  | rowStep r => exact Laws.RoundTrip.rowStep r
  | keyNone => exact Laws.RoundTrip.keyNone
  | keyLookup r c => exact Laws.RoundTrip.keyLookup r c
  | keyFlush => exact Laws.RoundTrip.keyFlush
  | keyClear => exact Laws.RoundTrip.keyClear
  | keyData key => exact Laws.RoundTrip.keyData key
  | flush => exact Laws.RoundTrip.flush
  | forceFlush => exact Laws.RoundTrip.forceFlush
  | cycleEnd => exact Laws.RoundTrip.cycleEnd
  | startup => exact Laws.RoundTrip.startup

variable {s t : State}

/-! ### The operations -/

/-- FLUSH completes and goes on with the run. -/
theorem flush_runs (hlen : s.len.toNat ≤ Config.bufN) : ∃ t frames, flush s = .next t ∧ Runs frames s t := by
  obtain ⟨t, bytes, ht, hsends, -, -, -⟩ := flush_spec s hlen
  obtain ⟨frames, hrun, -⟩ := hsends.runs
  exact ⟨t, frames, ht, hrun⟩

/-- The append and the drop complete and write no line. -/
theorem keyData_runs (key : Byte) (hlen : s.len.toNat ≤ Config.bufN) :
    ∃ t frames, keyData key s = .next t ∧ Runs frames s t := by
  rcases Nat.lt_or_eq_of_le hlen with hroom | hfull
  · exact ⟨_, [], keyData_room key hroom, .silent rfl rfl (Nat.le_refl _) rfl⟩
  · exact ⟨s, [], keyData_full key hfull, .refl s⟩

theorem forceFlush_runs (hlen : s.len.toNat ≤ Config.bufN) : ∃ t frames, forceFlush s = .next t ∧ Runs frames s t := by
  by_cases hfull : s.len.toNat = Config.bufN
  · rw [forceFlush_full hfull]
    exact flush_runs hlen
  · exact ⟨s, [], forceFlush_room hfull, .refl s⟩

/-- In a legal state an operation completes and goes on with the run, unless an operand is reserved and it faults (R82,
R184). -/
theorem exec_of_legal (hs : Legal s) (i : Instr) :
    (∃ t frames, exec i s = .next t ∧ Runs frames s t) ∨ i.wellFormed = false ∧ ∃ x, exec i s = .fault x := by
  cases i with
  | txFrame d =>
    obtain ⟨frames, hrun, -⟩ := (txFrame_sends s d).runs
    exact .inl ⟨_, frames, exec_txFrame hs d, hrun⟩
  | scanRow r =>
    by_cases hr : r.toNat < Config.nRows
    · obtain ⟨r, rfl⟩ := exists_rowNum hr
      have hscan := scanRow_eq r s
      exact .inl ⟨_, [], (exec_scanRow hs _).trans hscan, scanRow_runs hscan⟩
    · exact .inr ⟨decide_eq_false hr, _, (reservedRowFaults r s hs (Nat.le_of_not_lt hr)).1⟩
  | rowStep r =>
    by_cases hr : r.toNat < Config.nRows
    · obtain ⟨r, rfl⟩ := exists_rowNum hr
      obtain ⟨v, t, bytes, ht, hhead, htail⟩ := rowStep_parts r hs
      obtain ⟨frames, hrun⟩ := htail.runs
      exact .inl ⟨t, _, ht, hhead.runs.trans hrun⟩
    · exact .inr ⟨decide_eq_false hr, _, (reservedRowFaults r s hs (Nat.le_of_not_lt hr)).2⟩
  | keyNone => exact .inl ⟨s, [], exec_keyNone hs, .refl s⟩
  | keyLookup r c =>
    by_cases hr : r.toNat < Config.nRows
    · obtain ⟨r, rfl⟩ := exists_rowNum hr
      obtain ⟨k, hk⟩ := keymapRead_isSome r c
      exact .inl ⟨_, [], (exec_keyLookup hs _ c).trans (keyLookup_eq hk s), .silent rfl rfl (Nat.le_refl _) rfl⟩
    · have hindex : Config.nRows * Config.nCols ≤ Config.nCols * r.toNat + c.toNat := by
        rw [Nat.mul_comm]
        exact Nat.le_add_right_of_le (Nat.mul_le_mul_left _ (Nat.le_of_not_lt hr))
      exact .inr ⟨decide_eq_false hr, _, reservedKeyIndexFaults r c s hs hindex⟩
  | keyFlush => exact .inl (exec_keyFlush hs ▸ flush_runs hs.1)
  | keyClear => exact .inl ⟨_, [], exec_keyClear hs, .silent rfl rfl (Nat.le_refl _) rfl⟩
  | keyData key => exact .inl (exec_keyData hs key ▸ keyData_runs key hs.1)
  | flush => exact .inl (exec_flush hs ▸ flush_runs hs.1)
  | forceFlush => exact .inl (exec_forceFlush hs ▸ forceFlush_runs hs.1)
  | cycleEnd => exact .inl ⟨_, [], exec_cycleEnd hs, exec_cycleEnd_runs (exec_cycleEnd hs)⟩
  | startup =>
    obtain ⟨hsends, -⟩ := sendIdent_sends (s.hold s.par.powerupTicks)
    obtain ⟨frames, hrun, -⟩ := hsends.runs
    exact .inl ⟨_, _, exec_startup hs, (hold_runs s _).trans hrun⟩

/-- An operation that completes goes on with the run. -/
theorem exec_runs {i : Instr} (ht : exec i s = .next t) : ∃ frames, Runs frames s t := by
  rcases exec_of_legal (legal_of_exec ht) i with ⟨u, frames, hu, hrun⟩ | ⟨-, x, hx⟩
  · cases hu.symm.trans ht
    exact ⟨frames, hrun⟩
  · cases hx.symm.trans ht

/-- A well-formed operation completes in a legal state. -/
theorem exec_completes (hs : Legal s) {i : Instr} (hi : i.wellFormed = true) : ∃ t, exec i s = .next t := by
  rcases exec_of_legal hs i with ⟨t, -, ht, -⟩ | ⟨hnot, -⟩
  · exact ⟨t, ht⟩
  · exact absurd (hnot.symm.trans hi) Bool.false_ne_true

/-- No operation is refused. -/
theorem exec_ne_refused (i : Instr) (s : State) (x : Refusal) : exec i s ≠ .refused x := by
  by_cases hlen : s.len.toNat ≤ Config.bufN
  · cases hres : legalRes s.res with
    | true =>
      rcases exec_of_legal ⟨hlen, hres⟩ i with ⟨t, -, ht, -⟩ | ⟨-, y, hy⟩
      · simp [ht]
      · simp [hy]
    | false => simp [(stops_of_guard (guardState_of_reserved hlen hres)).1 i]
  · simp [(stops_of_guard (guardState_of_lt (Nat.lt_of_not_le hlen))).1 i]

/-! ### The step -/

/-- The statements before a position's operation go on with the run and keep LEN and the scanner result. -/
theorem before_spec (s : State) : Runs [] s (before s) ∧ (before s).len = s.len ∧ (before s).res = s.res := by
  unfold before
  cases s.pp with
  | powerup => exact ⟨hold_runs s _, rfl, rfl⟩
  | ident i => exact ⟨.refl s, rfl, rfl⟩
  | row r q =>
    cases q with
    | scan => exact ⟨slack_runs s, rfl, rfl⟩
    | save => exact ⟨.silent rfl rfl (Nat.le_refl _) rfl, rfl, rfl⟩
    | lookup => exact ⟨.refl s, rfl, rfl⟩
    | dispatch => exact ⟨.refl s, rfl, rfl⟩
    | force => exact ⟨slack_runs s, rfl, rfl⟩
    | settle => exact ⟨rowSettle_runs s, by rw [rowSettle_eq], by rw [rowSettle_eq]⟩
    | restore => exact ⟨rowRestore_runs s, rfl, rfl⟩
  | cycleEnd => exact ⟨.refl s, rfl, rfl⟩

/-- So do the statements after it. -/
theorem after_runs (s : State) : Runs [] s (after s) := by
  unfold after
  split
  case h_1 =>
    split
    · exact showKey_runs s
    · exact .refl s
  all_goals exact .refl s

/-- A step that completes goes on with the run, and then moves the position. -/
theorem step_runs (ht : step s = .next t) : ∃ frames u p, Runs frames s u ∧ t = u.setPp p := by
  obtain ⟨-, ht⟩ := guardState_eq_next.mp ht
  have hbefore := (before_spec s).1
  unfold runPosition at ht
  split at ht
  · cases ht
    exact ⟨_, _, _, hbefore.trans (after_runs _), rfl⟩
  · split at ht
    · cases ht
    · obtain ⟨v, hv, ht⟩ := andThen_eq_next.mp ht
      obtain ⟨frames, hrun⟩ := exec_runs hv
      cases ht
      exact ⟨_, _, _, (hbefore.trans hrun).trans (after_runs v), rfl⟩

/-- R88, R141: in a legal state a position's word decodes to a well-formed operation. -/
theorem decode_opWord (hs : Legal s) {w : OpWord} (hw : opWord s = some w) :
    ∃ i, decode w = .ok i ∧ i.wellFormed = true := by
  have hrow : ∀ r : Fin Config.nRows, legalRow (rowNum r) = true := fun r =>
    decide_eq_true ((rowNum_toNat r).trans_lt r.isLt)
  have hlegal : (∀ unit r, w = .opR3 unit r → legalRow r = true) ∧
      ∀ row res, w = .scanRes3 row res → legalRow row = true ∧ legalRes res = true := by
    unfold opWord at hw
    split at hw
    case h_3 r _ =>
      -- the scan
      cases hw
      refine ⟨fun _ _ h => ?_, nofun⟩
      cases h
      exact hrow r
    case h_5 r _ =>
      -- the look-up
      cases hw
      refine ⟨nofun, fun _ _ h => ?_⟩
      cases h
      exact ⟨hrow r, hs.2⟩
    case h_7 =>
      -- the forced flush
      split at hw <;> cases hw
      exact ⟨nofun, nofun⟩
    -- no row and no scanner result in the words of the other positions
    all_goals cases hw
    all_goals exact ⟨nofun, nofun⟩
  cases hd : decode w with
  | ok i => exact ⟨i, rfl, wellFormed_of_decode hd hlegal.1 fun row res h => (hlegal.2 row res h).1⟩
  | error x =>
    obtain ⟨row, res, rfl, hres⟩ := (decode_eq_error_iff w x).mp hd
    exact absurd (hres.symm.trans (hlegal.2 row res rfl).2) Bool.false_ne_true

/-- Settles O42: in a legal state the guard lets the position through, and a reserved result is a fault at the guard as
well as at the decoder. -/
theorem stepRunsTheDecodedOperation : Obligations.StepRunsTheDecodedOperation := by
  intro s
  refine ⟨fun hs => ⟨fun w i hw hi => ?_, fun hw => ?_⟩, fun hlen w x hw hx => ?_⟩
  · rw [step, guardState_of_legal hs, runPosition, hw]
    simp only [hi]
  · rw [step, guardState_of_legal hs, runPosition, hw]
  · cases hres : legalRes s.res with
    | false => exact guardState_of_reserved hlen hres _
    | true =>
      obtain ⟨i, hi, -⟩ := decode_opWord ⟨hlen, hres⟩ hw
      cases hi.symm.trans hx

/-- A step completes in every legal state. -/
theorem step_completes (hs : Legal s) : ∃ t, step s = .next t := by
  obtain ⟨hword, hnone⟩ := (stepRunsTheDecodedOperation s).1 hs
  cases hw : opWord s with
  | none => exact ⟨_, hnone hw⟩
  | some w =>
    obtain ⟨i, hi, hwell⟩ := decode_opWord hs hw
    obtain ⟨-, hlen, hres⟩ := before_spec s
    obtain ⟨v, hv⟩ := exec_completes (s := before s) (by rwa [Legal, hlen, hres]) hwell
    exact ⟨_, by rw [hword w i hw hi, hv, andThen_next]⟩

/-- Settles O60: the guard's two faults are the step's. -/
theorem onlyModelFaultsStop : Obligations.OnlyModelFaultsStop := by
  refine ⟨exec_ne_refused, fun i s hs => exec_completes hs, fun s => ?_⟩
  by_cases hlen : s.len.toNat ≤ Config.bufN
  · cases hres : legalRes s.res with
    | true => exact .inl (step_completes ⟨hlen, hres⟩)
    | false => exact .inr (.inr ⟨hlen, rfl, guardState_of_reserved hlen hres _⟩)
  · exact .inr (.inl ⟨Nat.lt_of_not_le hlen, guardState_of_lt (Nat.lt_of_not_le hlen) _⟩)

/-! ### The course of a run -/

/-- What the statements on time and frames ask of two states. -/
theorem Runs.course {frames : List (Nat × Byte)} (h : Runs frames s t) :
    (∃ ext, t.trace = s.trace ++ ext ∧ s.now ≤ t.now ∧ inOrder s.now t.now ext) ∧
    ∀ old, Framed s old → ∃ more, Framed t (old ++ more) := by
  obtain ⟨ext, hext, horder, -⟩ := h.trace
  exact ⟨⟨ext, hext, h.now, horder⟩, fun old hold => ⟨frames, h.framed hold⟩⟩

/-- Settles O52: a completed operation goes on with the run. -/
theorem operationsKeepTimeOrder : Obligations.OperationsKeepTimeOrder := fun _ _ _ ht =>
  let ⟨_, hrun⟩ := exec_runs ht
  hrun.course

/-- Settles O53: so does a completed step, and the move to the next position touches neither time nor the trace. -/
theorem stepsKeepTimeOrder : Obligations.StepsKeepTimeOrder := by
  intro s t ht
  obtain ⟨frames, u, p, hrun, rfl⟩ := step_runs ht
  exact hrun.course

/-- Settles O54: a run goes on with its parameters, and only the end of a step moves the position. -/
theorem parametersAreFixed : Obligations.ParametersAreFixed := by
  refine ⟨fun i s t ht => ?_, fun s t ht => ?_⟩
  · obtain ⟨frames, hrun⟩ := exec_runs ht
    exact ⟨hrun.par, hrun.pp⟩
  · obtain ⟨frames, u, p, hrun, rfl⟩ := step_runs ht
    exact hrun.par

/-! ### A placed word -/

/-- R85 to R89: a table word is a scanner result of row 0 or a key code (assumption log entry 13). -/
theorem tableWord_eq_some {nbits w : Nat} {op : OpWord} (h : tableWord nbits w = some op) :
    (∃ res, op = .scanRes3 0#_ res) ∨ ∃ key, op = .key8 key := by
  unfold tableWord at h
  split at h
  · split at h <;> cases h
    exact .inl ⟨_, rfl⟩
  · split at h <;> cases h
    exact .inr ⟨_, rfl⟩

/-- A decoded table word is a word that decodes. -/
theorem decodeTableWord_eq_some {nbits w : Nat} {i : Instr} (h : decodeTableWord nbits w = some i) :
    ∃ op, tableWord nbits w = some op ∧ decode op = .ok i := by
  unfold decodeTableWord at h
  cases hop : tableWord nbits w with
  | none => simp [hop] at h
  | some op =>
    cases hi : decode op with
    | error x => simp [hop, hi] at h
    | ok j =>
      simp only [hop, hi, Option.some.injEq] at h
      exact ⟨op, rfl, h ▸ hi⟩

/-- A word that decodes and stands where the position reads it is run, where nothing stands before it. -/
theorem step_of_opWord (hs : Legal s) {op : OpWord} {i : Instr} (hop : opWord s = some op) (hi : decode op = .ok i)
    (hb : before s = s) : step s = andThen (exec i s) fun t => .next (finish t) := by
  rw [((stepRunsTheDecodedOperation s).1 hs).1 op i hop hi, hb]

/-- Settles O43: a placed word is the word of the position it is placed at, and nothing stands before the operation
there. -/
theorem placedWordRunsNext : Obligations.PlacedWordRunsNext := by
  intro s nbits w i hs hword
  obtain ⟨op, hop, hi⟩ := decodeTableWord_eq_some hword
  have hplaced : s.withFetchWord nbits w = placeWord s op := by rw [State.withFetchWord, hop]
  rw [hplaced]
  rcases tableWord_eq_some hop with ⟨res, rfl⟩ | ⟨key, rfl⟩
  · have hres : legalRes res = true := by
      rw [decode_scanRes3] at hi
      by_contra hnot
      rw [if_neg hnot] at hi
      cases hi
    have hrow : placeWord s (.scanRes3 0#_ res) = { s with pp := .row 0 .lookup, res := res } := rfl
    rw [hrow]
    exact step_of_opWord (s := { s with pp := .row 0 .lookup, res := res }) ⟨hs.1, hres⟩ rfl hi rfl
  · exact step_of_opWord (s := { s with pp := .row 0 .dispatch, key := key }) hs rfl hi rfl

end Sys2Proof.Machine
end

section
/-! The sequencer's positions and the operations they make up (R32, R140, R156 to R161): STARTUP, a row and a scan cycle
are what the steps of their positions do. -/

namespace Sys2Proof.Machine

variable {s t : State}

/-- The first of n + 1 steps. -/
theorem steps_succ (h : step s = .next t) (n : Nat) : steps (n + 1) s = steps n t := by rw [steps, h, andThen_next]

/-- m steps and then n. -/
theorem steps_add {m : Nat} (h : steps m s = .next t) (n : Nat) : steps (m + n) s = steps n t := by
  induction m generalizing s with
  | zero =>
    cases h
    rw [Nat.zero_add]
  | succ m ih =>
    obtain ⟨u, hu, h⟩ := andThen_eq_next.mp h
    rw [Nat.add_right_comm, steps_succ hu, ih h]

/-! ### An operation does not see the position -/

/-- What does not see the position and keeps it does the same from another position. -/
theorem next_setPp {F : State → Out} {p : PP} (hF : Blind (State.setPp · p) F)
    (hpp : ∀ u, F (s.setPp p) = .next u → u.pp = p) (ht : F s = .next t) : F (s.setPp p) = .next (t.setPp p) := by
  have h := hF s
  dsimp only at h
  rw [ht] at h
  cases hu : F (s.setPp p) with
  | next u =>
    rw [hu] at h
    have hsame : u.setPp p = t.setPp p := Host.Outcome.next.inj h
    rw [← hsame, State.setPp, ← hpp u hu]
  | fault x =>
    rw [hu] at h
    cases h
  | refused x =>
    rw [hu] at h
    cases h

theorem exec_setPp {i : Instr} (ht : exec i s = .next t) (p : PP) : exec i (s.setPp p) = .next (t.setPp p) :=
  next_setPp ((erasure_setPp p).blind_exec i) (fun _ hu => let ⟨_, hrun⟩ := exec_runs hu; hrun.pp) ht

theorem rowDispatch_setPp (hlen : s.len.toNat ≤ Config.bufN) (ht : rowDispatch s = .next t) (p : PP) :
    rowDispatch (s.setPp p) = .next (t.setPp p) := by
  refine next_setPp (erasure_setPp p).blind_rowDispatch (fun u hu => ?_) ht
  obtain ⟨v, bytes, hv, hsends, -⟩ := rowDispatch_spec (s.setPp p) hlen
  cases hv.symm.trans hu
  exact hsends.pp

theorem rowForce_setPp (hlen : s.len.toNat ≤ Config.bufN) (ht : rowForce s = .next t) (p : PP) :
    rowForce (s.setPp p) = .next (t.setPp p) := by
  refine next_setPp (erasure_setPp p).blind_rowForce (fun u hu => ?_) ht
  obtain ⟨v, bytes, hv, hsends, -⟩ := rowForce_spec (s.setPp p) hlen
  cases hv.symm.trans hu
  exact hsends.pp

/-- The look-up keeps the position. -/
theorem rowLookup_pp {r : RowNum} (ht : rowLookup r s = .next t) : t.pp = s.pp := by
  unfold rowLookup at ht
  split at ht
  · obtain ⟨u, hu, ht⟩ := andThen_eq_next.mp ht
    unfold keyLookup at hu
    split at hu <;> cases hu
    cases ht
    rfl
  · split at ht <;> cases ht
    rfl

theorem rowLookup_setPp {r : RowNum} (ht : rowLookup r s = .next t) (p : PP) :
    rowLookup r (s.setPp p) = .next (t.setPp p) :=
  next_setPp ((erasure_setPp p).blind_rowLookup r) (fun _ => rowLookup_pp) ht

/-! ### A row -/

variable {r : Fin Config.nRows}

/-- The look-up's step, whether or not a key fired (R142, R143, R145). -/
theorem step_lookup (hs : Legal s) (hp : s.pp = .row r .lookup) (ht : rowLookup (rowNum r) s = .next t) :
    step s = .next (t.setPp (if resValid s.res then .row r .dispatch else .row r .force)) := by
  cases hv : resValid s.res with
  | true =>
    obtain ⟨k, hk⟩ := keymapRead_isSome r (resCol s.res)
    cases (rowLookup_key hv hk).symm.trans ht
    exact step_lookup_key hs hp hv hk
  | false =>
    cases (rowLookup_none hs.2 hv).symm.trans ht
    exact step_lookup_none hs hp (res_eq_zero hs.2 hv)

/-- From the forced flush on, three steps end the row (R152 to R154, R156). -/
theorem steps_force (hs : Legal s) (hforce : rowForce s = .next t) :
    steps 3 (s.setPp (.row r .force)) = .next ((rowRestore (rowSettle t)).setPp (rowAfter r)) := by
  obtain ⟨t', bytes, ht', hsends, -, -, hlen⟩ := rowForce_spec s hs.1
  cases ht'.symm.trans hforce
  have ht : Legal t := ⟨Nat.le_of_lt hlen, by rw [hsends.res]; exact hs.2⟩
  have hsettle : rowSettle (t.setPp (.row r .settle)) = (rowSettle t).setPp (.row r .settle) := by
    rw [rowSettle_eq, rowSettle_eq]
    rfl
  have hsettled : Legal (rowSettle t) := by
    rw [rowSettle_eq]
    exact ht
  have h1 : step (s.setPp (.row r .force)) = .next (t.setPp (.row r .settle)) :=
    step_force (s := s.setPp (.row r .force)) (t := t.setPp (.row r .force)) hs rfl (rowForce_setPp hs.1 hforce _) rfl
  have h2 : step (t.setPp (.row r .settle)) = .next ((rowSettle t).setPp (.row r .restore)) :=
    (step_settle (s := t.setPp (.row r .settle)) ht rfl).trans (by rw [hsettle]; rfl)
  have h3 : step ((rowSettle t).setPp (.row r .restore)) = .next ((rowRestore (rowSettle t)).setPp (rowAfter r)) :=
    step_restore (s := (rowSettle t).setPp (.row r .restore)) hsettled rfl
  rw [steps_succ h1, steps_succ h2, steps_succ h3, steps]

/-- Settles O45: the scan, the save and the look-up are the row's head; the dispatch is a step of its own where a key
fired, and does nothing where none did. -/
theorem stepsOfARowAreRowStep : Obligations.StepsOfARowAreRowStep := by
  intro r s hs hp
  obtain ⟨v, w, x, bytes, hlookup, hdispatch, hforce, ht, hhead, -⟩ := rowStep_spec r hs
  have hlegal : Legal (rowScanned r s) := ⟨hs.1, legalRes_prio _⟩
  have hv : Legal v := by
    rw [Legal, hhead.len, hhead.res]
    exact hlegal
  have hlookup' := step_lookup (s := (rowScanned r s).saveLed.setPp (.row r .lookup)) hlegal rfl
    (rowLookup_setPp hlookup _)
  refine ⟨_, ht, ?_⟩
  have hhead3 : ∀ n, steps (n + 3) s =
      steps n (v.setPp (if resValid (scanResult r s) then .row r .dispatch else .row r .force)) := by
    intro n
    rw [steps_succ (step_scan hs hp (scanRow_rowScanned r s) rfl),
      steps_succ (step_save (s := (rowScanned r s).setPp (.row r .save)) hlegal rfl)]
    exact steps_succ hlookup' n
  obtain ⟨w', bytes', hw', hsends, -, -, hwlen⟩ := rowDispatch_spec v hv.1
  cases hw'.symm.trans hdispatch
  have hw : Legal w := ⟨hwlen, by rw [hsends.res]; exact hv.2⟩
  cases hfired : resValid (scanResult r s) with
  | true =>
    have hvalid : resValid (v.setPp (.row r .dispatch)).res = true := (congrArg resValid hhead.res).trans hfired
    simp only [hfired, if_true] at hhead3 ⊢
    rw [hhead3 4, steps_succ (step_dispatch (s := v.setPp (.row r .dispatch)) hv rfl hvalid
      (rowDispatch_setPp hv.1 hdispatch _) rfl)]
    exact steps_force (s := w) hw hforce
  | false =>
    have hnone : ¬ resValid v.res = true := by simp [hhead.res, hfired]
    rw [rowDispatch, if_neg hnone] at hdispatch
    cases hdispatch
    simp only [hfired, Bool.false_eq_true, if_false] at hhead3 ⊢
    rw [hhead3 3]
    exact steps_force hw hforce

/-! ### STARTUP -/

theorem txFrame_setPp (s : State) (d : Byte) (p : PP) : (s.setPp p).txFrame d = (s.txFrame d).setPp p := by
  rw [txFrame_eq, txFrame_eq]
  rfl

/-- R158: the frame of IDENT at index i is one step. -/
theorem steps_ident_succ (i : Fin Config.identLen) (hs : Legal s) (n : Nat) :
    steps (n + 1) (s.setPp (.ident i)) = steps n ((s.txFrame identBytes[i]).setPp
      (if h : i.val + 1 < Config.identLen then .ident ⟨i.val + 1, h⟩ else .row 0 .scan)) := by
  have hstep := step_ident (s := s.setPp (.ident i)) hs rfl
  rw [txFrame_setPp] at hstep
  exact steps_succ hstep n

/-- R158, R159: from the frame of IDENT at index i on, the frames that are left lead to row 0. -/
theorem steps_ident (n : Nat) (i : Fin Config.identLen) (hs : Legal s) (h : i.val + n + 1 = Config.identLen) :
    steps (n + 1) (s.setPp (.ident i)) =
      .next ((s.sendAll (identBytes.toList.drop i.val)).setPp (.row 0 .scan)) := by
  induction n generalizing i s with
  | zero =>
    have hlast : identBytes.toList.drop i.val = [identBytes[i]] := by
      rw [List.drop_eq_getElem_cons (by simp), List.drop_of_length_le (by simp; omega)]
      rfl
    rw [steps_ident_succ i hs, dif_neg (by omega), hlast]
    rfl
  | succ n ih =>
    have hnext : i.val + 1 < Config.identLen := by omega
    have hdrop : identBytes.toList.drop i.val = identBytes[i] :: identBytes.toList.drop (i.val + 1) :=
      List.drop_eq_getElem_cons (by simp)
    rw [steps_ident_succ i hs, dif_pos hnext, hdrop]
    exact ih ⟨i.val + 1, hnext⟩ (hs.txFrame identBytes[i]) (by simp only; omega)

/-- Settles O46: the hold is a step, and each frame of IDENT is one. -/
theorem stepsFromPowerupAreStartup : Obligations.StepsFromPowerupAreStartup := by
  intro s hs hp
  refine ⟨_, exec_startup hs, ?_⟩
  rw [steps_succ (step_powerup hs hp)]
  exact steps_ident (s := s.hold s.par.powerupTicks) 4 0 hs rfl

/-! ### The scan cycle -/

/-- A row ends in a legal state, with its parameters. -/
theorem rowStep_legal (r : Fin Config.nRows) (hs : Legal s) :
    ∃ t, exec (.rowStep (rowNum r)) s = .next t ∧ Legal t ∧ t.par = s.par ∧
      s.now + s.par.rowSettleTicks ≤ t.now := by
  obtain ⟨v, t, bytes, ht, hhead, htail⟩ := rowStep_parts r hs
  obtain ⟨t', ht', hnow⟩ := rowStepDuration r s hs
  cases ht'.symm.trans ht
  refine ⟨t, ht, ⟨Nat.le_of_lt htail.len, ?_⟩, htail.par.trans hhead.runs.par, by omega⟩
  rw [htail.res, hhead.res]
  exact legalRes_prio _

/-- The position at which row k of a cycle begins, and after the last row the end of the cycle. -/
def rowStart (k : Nat) : PP := if h : k < Config.nRows then .row ⟨k, h⟩ .scan else .cycleEnd

/-- R140, R156: from the start of row 0 the positions of the first k rows do what their ROW.STEPs do. -/
theorem steps_rows (k : Nat) (hk : k ≤ Config.nRows) (hs : Legal s) :
    ∃ t n, execSeq (((List.finRange Config.nRows).take k).map fun r => .rowStep (rowNum r)) s = .next t ∧ Legal t ∧
      6 * k ≤ n ∧ n ≤ 7 * k ∧ steps n (s.setPp (rowStart 0)) = .next (t.setPp (rowStart k)) := by
  induction k with
  | zero => exact ⟨s, 0, rfl, hs, Nat.le_refl _, Nat.le_refl _, rfl⟩
  | succ k ih =>
    obtain ⟨u, m, hu, hulegal, hlo, hhi, hsteps⟩ := ih (Nat.le_of_succ_le hk)
    have hstart : rowStart k = .row ⟨k, hk⟩ .scan := dif_pos hk
    obtain ⟨t, ht, htlegal, -, -⟩ := rowStep_legal ⟨k, hk⟩ hulegal
    obtain ⟨t', ht', hrow⟩ := stepsOfARowAreRowStep ⟨k, hk⟩ (u.setPp (rowStart k)) hulegal hstart
    cases (exec_setPp ht _).symm.trans ht'
    have hlast : (List.finRange Config.nRows).take (k + 1) = (List.finRange Config.nRows).take k ++ [⟨k, hk⟩] := by
      rw [List.take_succ_eq_append_getElem (by simpa using hk), List.getElem_finRange]
      rfl
    refine ⟨t, _, ?_, htlegal, ?_, ?_, (steps_add hsteps _).trans hrow⟩
    · rw [hlast, List.map_append, execSeq_append, hu, andThen_next]
      exact andThen_eq_next.mpr ⟨t, ht, rfl⟩
    · split <;> omega
    · split <;> omega

/-- Settles O47: the five rows, and the one step of CYCLE.END. -/
theorem scanCycleReturnsToRowZero : Obligations.ScanCycleReturnsToRowZero := by
  intro s hs hp
  obtain ⟨t, n, ht, htlegal, hlo, hhi, hsteps⟩ := steps_rows Config.nRows (Nat.le_refl _) hs
  have hstart : s.setPp (rowStart 0) = s := by
    rw [show rowStart 0 = s.pp from hp.symm]
    rfl
  obtain ⟨u, hend⟩ : ∃ u, exec .cycleEnd t = .next u := ⟨_, exec_cycleEnd htlegal⟩
  have hstep : step (t.setPp .cycleEnd) = .next (u.setPp (.row 0 .scan)) :=
    step_cycleEnd (s := t.setPp .cycleEnd) (t := u.setPp .cycleEnd) htlegal rfl (exec_setPp hend _) rfl
  refine ⟨u, n + 1, ?_, Nat.add_le_add_right hlo 1, Nat.add_le_add_right hhi 1, ?_⟩
  · rw [scanCycle, execSeq_append]
    exact andThen_eq_next.mpr ⟨t, ht, andThen_eq_next.mpr ⟨u, hend, rfl⟩⟩
  · rw [hstart] at hsteps
    rw [steps_add hsteps]
    exact steps_succ hstep 0

/-- R216: rows one after another complete, and each lasts at least its settle time. -/
theorem execSeq_rowStep (rows : List (Fin Config.nRows)) (hs : Legal s) :
    ∃ t, execSeq (rows.map fun r => .rowStep (rowNum r)) s = .next t ∧ Legal t ∧ t.par = s.par ∧
      s.now + rows.length * s.par.rowSettleTicks ≤ t.now := by
  induction rows generalizing s with
  | nil => exact ⟨s, rfl, hs, rfl, by simp⟩
  | cons r rows ih =>
    obtain ⟨u, hu, hulegal, hupar, hunow⟩ := rowStep_legal r hs
    obtain ⟨t, ht, htlegal, htpar, htnow⟩ := ih hulegal
    refine ⟨t, andThen_eq_next.mpr ⟨u, hu, ht⟩, htlegal, htpar.trans hupar, ?_⟩
    rw [hupar] at htnow
    rw [List.length_cons, Nat.succ_mul]
    omega

/-- Settles O48: five rows, and then the hold of CYCLE.END. -/
theorem scanCycleSpacing : Obligations.ScanCycleSpacing := by
  intro s hs
  obtain ⟨t, ht, htlegal, htpar, htnow⟩ := execSeq_rowStep (List.finRange Config.nRows) hs
  obtain ⟨u, hu, -, -, hunow, -⟩ := cycleEndIdlesAndHolds t htlegal
  rw [List.length_finRange] at htnow
  refine ⟨u, ?_, ?_⟩
  · rw [scanCycle, execSeq_append]
    exact andThen_eq_next.mpr ⟨t, ht, andThen_eq_next.mpr ⟨u, hu, rfl⟩⟩
  · rw [hunow, htpar]
    omega

end Sys2Proof.Machine
end

section
/-! Frames of the operations (R21, R100, R132): what the transmitting operations and the others leave alone; and the
encodings on the lines (R72 to R77, R137, R201). -/

namespace Sys2Proof.Machine

variable {s t : State}

/-! ### Operations and the transmitter -/

/-- A flush that completes is a transmission that keeps BUF. -/
theorem flush_keeps (hlen : s.len.toNat ≤ Config.bufN) (ht : flush s = .next t) :
    ∃ bytes, Sends bytes s t ∧ t.buf = s.buf := by
  obtain ⟨u, bytes, hu, hsends, -, hbuf, -⟩ := flush_spec s hlen
  cases hu.symm.trans ht
  exact ⟨bytes, hsends, hbuf⟩

/-- R100, R150, R158: a transmitting operation holds for some time and sends some bytes, and keeps BUF; a frame and
STARTUP keep LEN and the flush's byte index too. -/
theorem transmits {i : Instr}
    (hi : (∃ d, i = .txFrame d) ∨ i = .startup ∨ i = .flush ∨ i = .keyFlush ∨ i = .forceFlush)
    (ht : exec i s = .next t) :
    ∃ d bytes, Sends bytes (s.hold d) t ∧ t.buf = s.buf ∧
      ((∃ d, i = .txFrame d) ∨ i = .startup → t.len = s.len ∧ t.flushIdx = s.flushIdx) := by
  have hs := legal_of_exec ht
  rcases hi with ⟨d, rfl⟩ | rfl | rfl | rfl | rfl
  · cases (exec_txFrame hs d).symm.trans ht
    exact ⟨0, [d], txFrame_sends s d, txFrame_buf s d, fun _ => ⟨txFrame_len s d, txFrame_flushIdx s d⟩⟩
  · cases (exec_startup hs).symm.trans ht
    obtain ⟨hsends, hlen, hbuf, hidx⟩ := sendIdent_sends (s.hold s.par.powerupTicks)
    exact ⟨_, _, hsends, hbuf, fun _ => ⟨hlen, hidx⟩⟩
  · obtain ⟨bytes, hsends, hbuf⟩ := flush_keeps hs.1 ((exec_flush hs).symm.trans ht)
    exact ⟨0, bytes, hsends, hbuf, by simp⟩
  · obtain ⟨bytes, hsends, hbuf⟩ := flush_keeps hs.1 ((exec_keyFlush hs).symm.trans ht)
    exact ⟨0, bytes, hsends, hbuf, by simp⟩
  · rw [exec_forceFlush hs] at ht
    by_cases hfull : s.len.toNat = Config.bufN
    · obtain ⟨bytes, hsends, hbuf⟩ := flush_keeps hs.1 ((forceFlush_full hfull).symm.trans ht)
      exact ⟨0, bytes, hsends, hbuf, by simp⟩
    · cases (forceFlush_room hfull).symm.trans ht
      exact ⟨0, [], Sends.nil s, rfl, by simp⟩

/-- Settles O16: a transmission leaves alone what the statement names. -/
theorem transmittingOperationsFrame : Obligations.TransmittingOperationsFrame := by
  intro i s t hi ht
  obtain ⟨d, bytes, h, hbuf, hkeeps⟩ := transmits hi ht
  exact ⟨h.rowSel, h.led, h.ledSave, h.snap, hbuf, h.pp, h.res, h.key, h.par, h.colQueue, h.sampleIdx, hkeeps⟩

/-- A run without frames shows no level on TXD. -/
theorem Runs.txdLevels_eq (h : Runs [] s t) : txdLevels t.trace = txdLevels s.trace := by
  obtain ⟨ext, hext, -, hline⟩ := h.trace
  rw [hext, txdLevels_append, ← txdLevels_txdEvents ext, hline]
  exact List.append_nil _

/-- Settles O17: each operation's update, and a run without frames. -/
theorem otherOperationsLeaveTxdAlone : Obligations.OtherOperationsLeaveTxdAlone := by
  intro i s t hi ht
  have hs := legal_of_exec ht
  rcases hi with ⟨r, rfl⟩ | rfl | ⟨r, c, rfl⟩ | rfl | ⟨k, rfl⟩ | rfl
  · rw [exec_scanRow hs] at ht
    have hlevels := (scanRow_runs ht).txdLevels_eq
    obtain ⟨hr, rfl⟩ := scanRow_eq_next ht
    exact ⟨rfl, rfl, rfl, rfl, hlevels⟩
  · cases (exec_keyNone hs).symm.trans ht
    exact ⟨rfl, rfl, rfl, rfl, rfl⟩
  · rw [exec_keyLookup hs, keyLookup] at ht
    split at ht <;> cases ht
    exact ⟨rfl, rfl, rfl, rfl, rfl⟩
  · cases (exec_keyClear hs).symm.trans ht
    exact ⟨rfl, rfl, rfl, rfl, rfl⟩
  · rw [exec_keyData hs] at ht
    rcases Nat.lt_or_eq_of_le hs.1 with hroom | hfull
    · cases (keyData_room k hroom).symm.trans ht
      exact ⟨rfl, rfl, rfl, rfl, rfl⟩
    · cases (keyData_full k hfull).symm.trans ht
      exact ⟨rfl, rfl, rfl, rfl, rfl⟩
  · have hlevels := (exec_cycleEnd_runs ht).txdLevels_eq
    cases (exec_cycleEnd hs).symm.trans ht
    exact ⟨rfl, rfl, rfl, rfl, hlevels⟩

/-- Settles O21: `scanRowSamplesAndStores` gives the three values in terms of the parameters, the sample and the row's
snapshot. -/
theorem scanDependsOnItsRowOnly : Obligations.ScanDependsOnItsRowOnly := by
  intro r s s' hs hs' hpar hsample hsnap
  obtain ⟨t, ht, hrow, hres, hstored, -⟩ := scanRowSamplesAndStores r s hs
  obtain ⟨t', ht', hrow', hres', hstored', -⟩ := scanRowSamplesAndStores r s' hs'
  refine ⟨t, t', ht, ht', ?_, ?_, ?_⟩
  · rw [hres, hres', hpar, hsample, hsnap]
  · rw [hrow, hrow', hpar]
  · rw [hstored, hstored', hsample]

/-! ### Eight codes and a ninth -/

/-- R147, R152: while the buffer does not fill, appends with a forced flush after each put their codes behind the
contents, and write no line. -/
theorem execSeq_keyData_forceFlush (codes : List Byte) (hs : Legal s)
    (hroom : s.len.toNat + codes.length < Config.bufN) :
    ∃ t, execSeq (codes.flatMap fun k => [.keyData k, .forceFlush]) s = .next t ∧ Legal t ∧
      t.len.toNat = s.len.toNat + codes.length ∧ contents t = contents s ++ codes ∧ t.trace = s.trace := by
  induction codes generalizing s with
  | nil => exact ⟨s, rfl, hs, rfl, (List.append_nil _).symm, rfl⟩
  | cons k codes ih =>
    rw [List.length_cons] at hroom
    obtain ⟨u, hu, hulegal, hulen, hucontents, hutrace⟩ := exec_keyData_room k hs (by omega)
    obtain ⟨t, ht, hlegal, hlen, hcontents, htrace⟩ := ih hulegal (by omega)
    have hforce : exec .forceFlush u = .next u := by
      rw [exec_forceFlush hulegal, forceFlush_room (by omega)]
    refine ⟨t, ?_, hlegal, ?_, ?_, htrace.trans hutrace⟩
    · exact andThen_eq_next.mpr ⟨u, hu, andThen_eq_next.mpr ⟨u, hforce, ht⟩⟩
    · rw [hlen, hulen, List.length_cons]
      omega
    · rw [hcontents, hucontents, List.append_assoc, List.singleton_append]

/-- R147, R152: the append that fills the buffer, and the forced flush. -/
theorem fill_and_flush (k : Byte) (hs : Legal s) (hlast : s.len.toNat + 1 = Config.bufN) :
    ∃ t ext, execSeq [.keyData k, .forceFlush] s = .next t ∧ Legal t ∧ t.len = 0#_ ∧ t.trace = s.trace ++ ext ∧
      sentBytes ext = contents s ++ [k] ++ [endMarker] ∧
      txdLevels ext = frameLevels (contents s ++ [k] ++ [endMarker]) := by
  obtain ⟨u, hu, hulegal, hulen, hucontents, hutrace⟩ := exec_keyData_room k hs (by omega)
  obtain ⟨t, ht, hsends, hlen, -, -⟩ := flush_sends u (by omega) hulegal.1
  obtain ⟨ext, hext, hsent, hlevels, -, -⟩ := hsends.events
  have hforce : exec .forceFlush u = .next t := by
    rw [exec_forceFlush hulegal, forceFlush_full (by omega), ht]
  rw [hucontents] at hsent hlevels
  refine ⟨t, ext, ?_, ⟨by simp [hlen], by rw [hsends.res]; exact hulegal.2⟩, hlen, by rw [hext, hutrace], hsent,
    hlevels⟩
  exact andThen_eq_next.mpr ⟨u, hu, andThen_eq_next.mpr ⟨t, hforce, rfl⟩⟩

/-- R147, R165: a code that is appended to an empty buffer is its first. -/
theorem append_first (k : Byte) (hs : Legal s) (hempty : s.len = 0#_) :
    ∃ t, execSeq [.keyData k, .forceFlush] s = .next t ∧ t.trace = s.trace ∧ t.len = 1#_ ∧ t.buf[0] = k := by
  have h0 : s.len.toNat = 0 := by simp [hempty]
  have hroom : s.len.toNat < Config.bufN := by
    rw [h0]
    decide
  obtain ⟨u, hu, hulegal, hulen, -, hutrace⟩ := exec_keyData_room k hs hroom
  obtain ⟨u', hu', hbuf, -⟩ := keyDataAppends k s hs hroom
  cases hu'.symm.trans hu
  have hlen : u.len = 1#_ := BitVec.eq_of_toNat_eq (by simp [hulen, h0])
  have hforce : exec .forceFlush u = .next u := by
    rw [exec_forceFlush hulegal, forceFlush_room (by rw [hlen]; decide)]
  rw [h0] at hbuf
  obtain ⟨_, hfirst⟩ := Vector.getElem?_eq_some_iff.mp hbuf
  exact ⟨u, andThen_eq_next.mpr ⟨u, hu, andThen_eq_next.mpr ⟨u, hforce, rfl⟩⟩, hutrace, hlen, hfirst⟩

/-- Settles O31: seven appends, the one that fills the buffer, and the ninth. -/
theorem ninthCodeStartsANewBuffer : Obligations.NinthCodeStartsANewBuffer := by
  intro codes ninth s hlen hs hempty
  have h0 : s.len.toNat = 0 := by simp [hempty]
  obtain ⟨seven, eighth, rfl⟩ : ∃ seven eighth, codes = seven ++ [eighth] :=
    (List.eq_nil_or_concat' codes).resolve_left fun hnil => by simp [hnil] at hlen
  rw [List.length_append, List.length_singleton] at hlen
  obtain ⟨u, hu, hulegal, hulen, hucontents, hutrace⟩ := execSeq_keyData_forceFlush seven hs (by omega)
  rw [contents_empty hempty, List.nil_append] at hucontents
  obtain ⟨v, ext, hv, hvlegal, hvlen, hvtrace, hsent, hlevels⟩ := fill_and_flush eighth hulegal (by omega)
  rw [hucontents] at hsent hlevels
  obtain ⟨t, ht, httrace, htlen, hfirst⟩ := append_first ninth hvlegal hvlen
  refine ⟨t, ext, ?_, by rw [httrace, hvtrace, hutrace], hsent, hlevels, htlen, hfirst⟩
  rw [List.flatMap_append, List.flatMap_append, List.append_assoc, execSeq_append, hu, andThen_next,
    List.flatMap_singleton, List.flatMap_singleton, execSeq_append, hv, andThen_next, ht]

/-! ### Encodings -/

/-- Settles O1: each word is decoded by its format's arm. -/
theorem knownWordsDecode : Obligations.KnownWordsDecode :=
  ⟨rfl, rfl, rfl, rfl, rfl, rfl, rfl, rfl, rfl, rfl⟩

/-- Settles O6: lane by lane by `getLsbD_edges`; at the active level 0 both complements are the formula's. -/
theorem edgeDetectorWorksLaneByLane : Obligations.EdgeDetectorWorksLaneByLane := by
  refine fun p sample prev => ⟨fun c => getLsbD_edges p sample prev c.isLt, fun hp => ?_⟩
  simp [edges, act, hp]

/-- R76: the one-hot pattern of five rows. -/
theorem getLsbD_rowBit (r j : Fin Config.nRows) :
    (1#Config.nRows <<< (rowNum r).toNat).getLsbD j.val = decide (j = r) := by
  revert r j
  decide

/-- R77: the one-hot pattern of four columns. -/
theorem getLsbD_colBit (c j : Fin Config.nCols) :
    (1#Config.nCols <<< (BitVec.ofNat Config.colBits c.val).toNat).getLsbD j.val = decide (j = c) := by
  revert c j
  decide

/-- R76: row r's pattern is at the active level in lane r alone. -/
theorem getLsbD_rowOne_iff (p : Params) (r j : Fin Config.nRows) :
    (rowOne p (rowNum r)).getLsbD j.val = p.rowActiveLevel ↔ j = r := by
  have hbit := getLsbD_rowBit r j
  cases hp : p.rowActiveLevel with
  | true => rw [rowOne, if_pos hp, hbit, decide_eq_true_iff]
  | false =>
    rw [rowOne, if_neg (by simp [hp]), BitVec.getLsbD_not, hbit]
    simp

/-- R77: column c's pattern lights lane c alone. -/
theorem getLsbD_ind_iff (p : Params) (c j : Fin Config.nCols) :
    (ind p (BitVec.ofNat _ c.val)).getLsbD j.val = p.ledOnLevel ↔ j = c := by
  have hbit := getLsbD_colBit c j
  cases hp : p.ledOnLevel with
  | true => rw [ind, ledLines, if_pos hp, hbit, decide_eq_true_iff]
  | false =>
    rw [ind, ledLines, if_neg (by simp [hp]), BitVec.getLsbD_not, hbit]
    simp

/-- Settles O7: the one-hot patterns, inverted where the level is 0; the idle patterns have no lane at the level. -/
theorem rowAndLedLinesSelectOne : Obligations.RowAndLedLinesSelectOne := by
  refine fun p => ⟨fun r j => ⟨getLsbD_rowOne_iff p r j, ?_⟩, fun c j => ⟨getLsbD_ind_iff p c j, ?_⟩⟩
  · cases hp : p.rowActiveLevel <;> simp [rowIdle, hp]
  · cases hp : p.ledOnLevel <;> simp [ledOff, ledLines, hp]

/-- Settles O8: the ideal sample is inverted with the active vector. -/
theorem idealMatrixShowsPressedKeys : Obligations.IdealMatrixShowsPressedKeys := by
  intro p pressed
  cases hp : p.colActiveLevel <;> simp [act, idealSample, hp]

/-- Settles O9: the reset values and the sizes, as they are defined. -/
theorem resetLeavesTheLinesIdle : Obligations.ResetLeavesTheLinesIdle :=
  ⟨rfl, rfl, rfl, rfl, rfl, rfl, rfl, rfl, by decide, rfl, rfl, rfl, Nat.le_add_left _ _, rfl, rfl⟩

end Sys2Proof.Machine
end

section
/-! The listener (R84, R104): between frames the line is 1, so that the falls a waiting listener sees are the start
phases of the frames, one after another. -/

namespace Sys2Proof.Machine

/-- The waveform of TXD comes from the TXD events alone. -/
theorem txdAt_txdEvents (init : Bool) (tr : List Event) (u : Nat) : txdAt init (txdEvents tr) u = txdAt init tr u := by
  induction tr generalizing init with
  | nil => rfl
  | cons e tr ih =>
    obtain ⟨time, x⟩ := e
    cases x with
    | txd v => exact ih _
    | _ => exact ih init

/-- A byte's bits, read back. -/
theorem listenerByte_eq {level : Nat → Bool} {t0 ui : Nat} {off : Nat → Nat} {d : Byte} (hoff : ∀ i, off i < ui)
    (hlevel : ∀ k < Config.phases, ∀ u, t0 + k * ui ≤ u → u < t0 + (k + 1) * ui → level u = (frameWord d).getLsbD k) :
    listenerByte level t0 ui off = d := by
  refine Eq.trans (byteOfBits_congr fun i hi => ?_) (byteOfBits_frameWord d)
  have hphase : i + 1 < Config.phases := Nat.lt_succ_of_lt (Nat.succ_lt_succ hi)
  have hend : (i + 1 + 1) * ui = (i + 1) * ui + ui := Nat.succ_mul _ _
  have := hoff i
  exact hlevel (i + 1) hphase _ (Nat.le_add_right _ _) (by omega)

section

variable {ui lo hi u : Nat} {as bs : List (Nat × Byte)}

/-- Frames that begin later do not show. -/
theorem txdAt_lineEvents_of_lt (init : Bool) (h : ∀ f ∈ bs, u < f.1) : txdAt init (lineEvents ui bs) u = init := by
  refine txdAt_of_lt init fun e he => ?_
  obtain ⟨f, hf, he⟩ := List.mem_flatMap.mp he
  exact Nat.lt_of_lt_of_le (h f hf) (frameEvents_txd he).2.1

/-- R103: after the end of every frame so far, and before the next one, the line is 1. -/
theorem txdAt_lineEvents_between (ha : ∀ f ∈ as, f.1 + Config.phases * ui ≤ u) (hb : ∀ f ∈ bs, u < f.1) :
    txdAt true (lineEvents ui (as ++ bs)) u = true := by
  rw [lineEvents_append, txdAt_append, txdAt_lineEvents_of_lt _ hb]
  rcases List.eq_nil_or_concat' as with rfl | ⟨as, f, rfl⟩
  · rfl
  · have hf := ha f (by simp)
    have hstop : (Config.phases - 1) * ui ≤ Config.phases * ui := Nat.mul_le_mul_right _ (Nat.sub_le _ _)
    rw [lineEvents_append, txdAt_append, lineEvents_cons, lineEvents_nil, List.append_nil]
    exact txdAt_frameEvents_stop _ _ (by omega)

/-- R102: inside a frame the line shows its phase. -/
theorem txdAt_lineEvents_phase {f : Nat × Byte} {k : Nat} (hk : k < Config.phases) (hfrom : f.1 + k * ui ≤ u)
    (huntil : u < f.1 + (k + 1) * ui) (hb : ∀ g ∈ bs, f.1 + Config.phases * ui ≤ g.1) :
    txdAt true (lineEvents ui (as ++ f :: bs)) u = (frameWord f.2).getLsbD k := by
  have hend : (k + 1) * ui ≤ Config.phases * ui := Nat.mul_le_mul_right _ hk
  rw [lineEvents_append, lineEvents_cons, txdAt_append, txdAt_append,
    txdAt_lineEvents_of_lt _ fun g hg => Nat.lt_of_lt_of_le huntil ((Nat.add_le_add_left hend _).trans (hb g hg))]
  exact txdAt_frameEvents_phase _ _ hk hfrom huntil

end

/-- The line does not fall where it is 1. -/
theorem fallsAt_of_high {init : Bool} {level : Nat → Bool} {t : Nat} (h : level t = true) :
    fallsAt init level t = false := by rw [fallsAt, h, Bool.not_true, Bool.and_false]

/-- No frame that begins at t or later ends by t. -/
theorem no_frame_after_stop {stop ui t : Nat} {bs : List (Nat × Byte)} (hui : 0 < ui) (hs : spaced 0 stop ui bs)
    (hb : ∀ f ∈ bs, t ≤ f.1) (hstop : stop ≤ t) : bs = [] := by
  have hframe : 0 < Config.phases * ui := Nat.mul_pos (by decide) hui
  refine List.eq_nil_iff_forall_not_mem.mpr fun f hf => ?_
  have hfrom := hb f hf
  have huntil := (hs.1 f hf).2
  omega

theorem spaced_right {lo hi ui : Nat} {as bs : List (Nat × Byte)} (h : spaced lo hi ui (as ++ bs)) :
    spaced lo hi ui bs :=
  ⟨fun f hf => h.1 f (List.mem_append_right _ hf), (List.pairwise_append.mp h.2).2.1⟩

/-- R104: a listener that waits at instant t, after the frames `as` and before the frames `bs`, on a line that is 1,
recovers the bytes of `bs`. -/
theorem listenFrom_eq {ui stop : Nat} {off : Nat → Nat → Nat} (hui : 0 < ui) (hoff : ∀ t0 i, off t0 i < ui)
    (fuel t : Nat) (as bs : List (Nat × Byte)) (hfuel : stop ≤ t + fuel) (hs : spaced 0 stop ui (as ++ bs))
    (ha : ∀ f ∈ as, f.1 + Config.phases * ui ≤ t) (hb : ∀ f ∈ bs, t ≤ f.1)
    (hidle : (if t = 0 then true else txdAt true (lineEvents ui (as ++ bs)) (t - 1)) = true) :
    listenFrom true (txdAt true (lineEvents ui (as ++ bs))) ui off stop fuel t = bs.map Prod.snd := by
  induction fuel generalizing t as bs with
  | zero =>
    rw [no_frame_after_stop hui (spaced_right hs) hb hfuel]
    rfl
  | succ fuel ih =>
    unfold listenFrom
    by_cases hstop : stop ≤ t
    · rw [if_pos hstop, no_frame_after_stop hui (spaced_right hs) hb hstop]
      rfl
    rw [if_neg hstop]
    by_cases hwait : ∀ f ∈ bs, t < f.1
    case pos =>
      have hlevel := txdAt_lineEvents_between ha hwait
      rw [if_neg (ne_true_of_eq_false (fallsAt_of_high hlevel))]
      exact ih (t + 1) as bs (by omega) hs (fun f hf => Nat.le_succ_of_le (ha f hf)) hwait hlevel
    case neg =>
      obtain _ | ⟨f, bs⟩ := bs
      · exact absurd nofun hwait
      have hnext := (List.pairwise_cons.mp (spaced_right hs).2).1
      obtain rfl : f.1 = t := by
        refine Nat.le_antisymm (Nat.le_of_not_lt fun hlt => hwait fun g hg => ?_) (hb f List.mem_cons_self)
        rcases List.mem_cons.mp hg with rfl | hg
        · exact hlt
        · exact Nat.lt_of_lt_of_le hlt (Nat.le_of_add_right_le (hnext g hg))
      have hphase : ∀ k < Config.phases, ∀ u, f.1 + k * ui ≤ u → u < f.1 + (k + 1) * ui →
          txdAt true (lineEvents ui (as ++ f :: bs)) u = (frameWord f.2).getLsbD k := fun k hk u hfrom huntil =>
        txdAt_lineEvents_phase hk hfrom huntil hnext
      have hstart : txdAt true (lineEvents ui (as ++ f :: bs)) f.1 = false :=
        (hphase 0 (by decide) f.1 (by omega) (by omega)).trans (frameWord_start f.2)
      have hlast : txdAt true (lineEvents ui (as ++ f :: bs)) (f.1 + Config.phases * ui - 1) = true := by
        have hphases : Config.phases * ui = (Config.phases - 1) * ui + ui := Nat.succ_mul _ _
        have hend : (Config.phases - 1 + 1) * ui = Config.phases * ui := rfl
        exact (hphase (Config.phases - 1) (by decide) _ (by omega) (by omega)).trans (frameWord_stop f.2)
      have hfalls : fallsAt true (txdAt true (lineEvents ui (as ++ f :: bs))) f.1 = true := by
        rw [fallsAt, hidle, hstart]
        rfl
      rw [if_pos hfalls, listenerByte_eq (hoff f.1) hphase, List.map_cons]
      refine congrArg (f.2 :: ·) ?_
      have hframe : 0 < Config.phases * ui := Nat.mul_pos (by decide) hui
      rw [List.append_cons] at hs hlast ⊢
      refine ih _ (as ++ [f]) bs (by omega) hs (fun g hg => ?_) hnext (by rw [if_neg (by omega)]; exact hlast)
      rcases List.mem_append.mp hg with hg | hg
      · exact Nat.le_add_right_of_le (ha g hg)
      · rw [List.mem_singleton.mp hg]

/-- R104: where a run has written whole frames, the listener of the run recovers their bytes. -/
theorem heard_of_framed {s : State} {frames : List (Nat × Byte)} {off : Nat → Nat → Nat} (hs : Framed s frames)
    (hoff : ∀ t0 i, off t0 i < s.par.uiTicks) : heard off s = frames.map Prod.snd := by
  obtain ⟨hline, hspaced⟩ := hs
  have hlevel : txdAt true s.trace = txdAt true (lineEvents s.par.uiTicks ([] ++ frames)) := by
    funext u
    rw [← txdAt_txdEvents, hline, List.nil_append]
  rw [heard, hlevel]
  exact listenFrom_eq (Nat.zero_lt_of_lt (hoff 0 0)) hoff _ 0 [] frames (Nat.le_add_left _ _) hspaced nofun
    (fun _ _ => Nat.zero_le _) rfl

/-- R18, R104: so does the byte-level view. -/
theorem sentBytes_of_framed {s : State} {frames : List (Nat × Byte)} (hs : Framed s frames) :
    sentBytes s.trace = frames.map Prod.snd := by
  rw [sentBytes, ← txdLevels_txdEvents, hs.1]
  exact sentBytes_lineEvents _ _

/-- R100 to R103: TX.FRAME adds one frame, which begins after its slack. -/
theorem txFrame_runs (s : State) (d : Byte) : Runs [(s.now + s.slackAt 0, d)] s (s.txFrame d) where
  par := (txFrame_sends s d).par
  pp := (txFrame_sends s d).pp
  now := by
    rw [txFrame_now]
    omega
  trace := by
    refine ⟨_, txFrame_trace s d, ⟨fun e he => ?_, frameEvents_pairwise _ _ _⟩, ?_⟩
    · obtain ⟨-, hfrom, huntil⟩ := frameEvents_txd he
      rw [txFrame_now]
      exact ⟨Nat.le_of_add_right_le hfrom, huntil⟩
    · rw [txdEvents_frameEvents]
      exact (List.append_nil _).symm
  spaced := ⟨by simp [txFrame_now], List.pairwise_singleton _ _⟩

/-- Settles O15: the listener of a run of frames, and the frame that TX.FRAME adds. -/
theorem listenerRecoversTheByte : Obligations.ListenerRecoversTheByte := by
  refine ⟨fun s frames off hs hoff => ⟨heard_of_framed hs hoff, sentBytes_of_framed hs⟩, fun d s off hs hoff => ?_⟩
  refine ⟨s.txFrame d, _, exec_txFrame hs d, txFrame_trace s d, ?_, ?_, fun frames => (txFrame_runs s d).framed⟩
  · refine listenerByte_eq hoff fun k hk u hfrom huntil => ?_
    rw [txFrame_trace, txdAt_append]
    exact txdAt_frameEvents_phase _ d hk hfrom huntil
  · rw [sentBytes, txdLevels_frameEvents, ← List.append_nil (List.map _ _), framesOf_cons]
    rfl

end Sys2Proof.Machine
end
